-- ==== Sys2Proof/Word.lean ====
section
/-! DEFINITION. Words, bytes, byte strings, and the readings U, S, W of rule R13 (spec/00_scope.md). -/

namespace Sys2Proof

/-- R13: a Word is a vector of 256 bits, bit 0 the least significant. -/
abbrev Word := BitVec 256

/-- R13: a byte is 8 bits. -/
abbrev Byte := BitVec 8

/-- R13: a byte string, index 0 first. -/
abbrev Bytes := List Byte

/-- R13: the unsigned value of a Word. -/
abbrev U (w : Word) : Nat := w.toNat

/-- R13: the signed (two's-complement) value of a Word. -/
abbrev S (w : Word) : Int := w.toInt

/-- R13: the Word whose unsigned value is `n mod 2^256`, for any integer `n`. -/
abbrev W (n : Int) : Word := BitVec.ofInt 256 n

/-- R13: the byte string of `n` zero bytes. -/
abbrev zeros (n : Nat) : Bytes := List.replicate n 0

end Sys2Proof
end

