-- ==== Sys2Proof/Machine/Bytes.lean ====
section
/-! DEFINITION. Byte order (R67, spec/20_memory.md): every conversion between a Word and bytes is big-endian. -/

namespace Sys2Proof.Machine

/-- R13: `BE32(w)[k] = w[255 - 8k : 248 - 8k]`, for `k` in 0..31. -/
def be32 (w : Word) : Bytes :=
  (List.range 32).map fun k => w.extractLsb' (248 - 8 * k) 8

/-- R13: the natural number a byte string encodes, its first byte most significant. -/
def fromBE : Bytes → Nat
  | [] => 0
  | b :: bs => b.toNat * 256 ^ bs.length + fromBE bs

/-- R67: the Word a byte string encodes. -/
def wordOfBytes (b : Bytes) : Word := W (fromBE b)

end Sys2Proof.Machine
end

