-- ==== Sys2Proof/Config.lean ====
section
/-! DEFINITION. What is fixed for one Engine: the constants of rule R9, the parameters of rule R10 and the hash
primitive of rule R12 (spec/00_scope.md). -/

namespace Sys2Proof

/-- R164: which operand of an `x, y` instruction is the top of the stack (BINOP_ORDER). -/
inductive BinopOrder where
  /-- `x = at(1)`, `y = at(2)`: the default. -/
  | xTop
  /-- `y = at(1)`, `x = at(2)`: the losing reading of conflict C1, kept as a switch. -/
  | yTop
  deriving DecidableEq, Repr

/-- R10: the parameters of one Engine, with the spec's defaults. `code` and `sto_init` are the construction port's
fields (R41) and stand in `State.construct`; `keccak256` is `Config.keccak256`. -/
structure Config where
  /-- BINOP_ORDER (R164, D7). -/
  binopOrder : BinopOrder := .xTop
  /-- PUSH0_PC_STEP, 0 or 1 (R26, D8). -/
  push0PcStep : Fin 2 := 0
  /-- OFFSET_LIMIT: the bound above which a Word used as an offset or size is refused (R73, D11). -/
  offsetLimit : Option Nat := none
  /-- MEM_LIMIT: the bound above which a Memory length is refused (R74, D12). -/
  memLimit : Option Nat := none
  /-- KeyT (D14), the integers from `keyMin` ... -/
  keyMin : Option Int := none
  /-- ... to `keyMax`: all integers by default, and every integer type of a width under some setting (log 9). -/
  keyMax : Option Int := none
  deriving DecidableEq, Repr

/-- R9: STACK_CAP, the most Words the Stack holds. -/
abbrev Config.stackCap : Nat := 1024

/-- R12, R191: the external hash primitive, a total function from byte strings to 32 bytes. FREE VALUE (log 8): it has
no body, so no proof can use a value of it; a statement holds for every such function. -/
opaque Config.keccak256 : Bytes → Vector Byte 32

/-- R10, R41: the total maps a host may give as `sto_init`, each under a number. FREE VALUE (log 9): it has no body, so a
statement holds for every map from keys to 32 bytes. -/
opaque Config.stoInit : Nat → Int → Vector Byte 32

end Sys2Proof
end

