-- ==== Sys2Proof/Syntax.lean ====
section
/-! DEFINITION. The commands of the Engine: one constructor per row of spec/opcode_table.json. An opcode-engine command
has no operand field: its operands stand on the stack and in `code` (R91). A component-port command carries the payload
fields its rule names (R92, R95, R97). -/

namespace Sys2Proof

/-- R96, R97: the 108 commands. Each constructor's comment names its rule. -/
inductive Instr where
  | add -- R151
  | mul -- R152
  | sub -- R153
  | div -- R154
  | sdiv -- R155
  | mod -- R156
  | smod -- R157
  | addmod -- R158
  | mulmod -- R159
  | exp -- R160
  | signextend -- R161
  | lt -- R171
  | gt -- R172
  | slt -- R173
  | sgt -- R174
  | eq -- R175
  | iszero -- R176
  | and -- R177
  | or -- R178
  | xor -- R179
  | not -- R180
  | byte -- R181
  | shl -- R182
  | shr -- R183
  | sar -- R184
  | keccak256 -- R190
  | pop -- R200
  | mload -- R195
  | mstore -- R196
  | mstore8 -- R197
  | push0 -- R201
  | push1 -- R203
  | push2 -- R204
  | push3 -- R205
  | push4 -- R206
  | push5 -- R207
  | push6 -- R208
  | push7 -- R209
  | push8 -- R210
  | push9 -- R211
  | push10 -- R212
  | push11 -- R213
  | push12 -- R214
  | push13 -- R215
  | push14 -- R216
  | push15 -- R217
  | push16 -- R218
  | push17 -- R219
  | push18 -- R220
  | push19 -- R221
  | push20 -- R222
  | push21 -- R223
  | push22 -- R224
  | push23 -- R225
  | push24 -- R226
  | push25 -- R227
  | push26 -- R228
  | push27 -- R229
  | push28 -- R230
  | push29 -- R231
  | push30 -- R232
  | push31 -- R233
  | push32 -- R234
  | dup1 -- R241
  | dup2 -- R242
  | dup3 -- R243
  | dup4 -- R244
  | dup5 -- R245
  | dup6 -- R246
  | dup7 -- R247
  | dup8 -- R248
  | dup9 -- R249
  | dup10 -- R250
  | dup11 -- R251
  | dup12 -- R252
  | dup13 -- R253
  | dup14 -- R254
  | dup15 -- R255
  | dup16 -- R256
  | swap1 -- R261
  | swap2 -- R262
  | swap3 -- R263
  | swap4 -- R264
  | swap5 -- R265
  | swap6 -- R266
  | swap7 -- R267
  | swap8 -- R268
  | swap9 -- R269
  | swap10 -- R270
  | swap11 -- R271
  | swap12 -- R272
  | swap13 -- R273
  | swap14 -- R274
  | swap15 -- R275
  | swap16 -- R276
  | stkPush (argWord : Word) -- R120
  | stkPop -- R121
  | stkPeek (argDepth : Int) -- R122
  | stkSwap (argDepth : Int) -- R123
  | stkSize -- R124
  | memStore (argBytes : Bytes) (argOff : Nat) -- R130
  | memLoad (argOff argSize : Nat) -- R131
  | memLoadB (argOff : Nat) -- R132
  | memLoadW (argOff : Nat) -- R133
  | memStoreB (argByte : Byte) (argOff : Nat) -- R134
  | memStoreW (argWord : Word) (argOff : Nat) -- R135
  | stoStore (argKey : Int) (argVal : Bytes) -- R140
  | stoLoad (argKey : Int) -- R141
  deriving DecidableEq, Repr

end Sys2Proof
end

