-- ==== Sys2Proof/WellFormed.lean ====
section
/-! DEFINITION. When a command's fields are ones the command port can carry (R42, spec/10_state.md). -/

namespace Sys2Proof

/-- R42: `arg_val` is 32 bytes. Every other payload field has its width in its type, and an opcode-engine command has
none. -/
def Instr.wellFormed : Instr → Bool
  | .stoStore _ v => v.length == 32
  | .add | .mul | .sub | .div | .sdiv | .mod | .smod | .addmod | .mulmod | .exp | .signextend | .lt | .gt
  | .slt | .sgt | .eq | .iszero | .and | .or | .xor | .not | .byte | .shl | .shr | .sar | .keccak256 | .pop
  | .mload | .mstore | .mstore8 | .push0 | .push1 | .push2 | .push3 | .push4 | .push5 | .push6 | .push7
  | .push8 | .push9 | .push10 | .push11 | .push12 | .push13 | .push14 | .push15 | .push16 | .push17 | .push18
  | .push19 | .push20 | .push21 | .push22 | .push23 | .push24 | .push25 | .push26 | .push27 | .push28
  | .push29 | .push30 | .push31 | .push32 | .dup1 | .dup2 | .dup3 | .dup4 | .dup5 | .dup6 | .dup7 | .dup8
  | .dup9 | .dup10 | .dup11 | .dup12 | .dup13 | .dup14 | .dup15 | .dup16 | .swap1 | .swap2 | .swap3 | .swap4
  | .swap5 | .swap6 | .swap7 | .swap8 | .swap9 | .swap10 | .swap11 | .swap12 | .swap13 | .swap14 | .swap15
  | .swap16 | .stkPush _ | .stkPop | .stkPeek _ | .stkSwap _ | .stkSize | .memStore _ _ | .memLoad _ _
  | .memLoadB _ | .memLoadW _ | .memStoreB _ _ | .memStoreW _ _ | .stoLoad _ => true

end Sys2Proof
end

