-- ==== Sys2Proof/Decode.lean ====
section
/-! DEFINITION. The command port's transfer (R42), the opcode map (R96, R97) as rows, the decoder and the encoder. -/

namespace Sys2Proof

/-- R42: one transfer on the command port. A field a command does not use is ignored. -/
structure Command where
  sel : BitVec 9
  argWord : Word
  argByte : Byte
  argDepth : Int
  argOff : Nat
  argSize : Nat
  argBytes : Bytes
  argKey : Int
  argVal : Bytes
  deriving DecidableEq, Repr

/-- The transfer of a select with every payload field zero. -/
def Command.ofSel (sel : BitVec 9) : Command :=
  { sel, argWord := 0, argByte := 0, argDepth := 0, argOff := 0, argSize := 0, argBytes := [], argKey := 0,
    argVal := zeros 32 }

/-- Why a transfer is not a command. -/
inductive DecodeError where
  /-- R98: the select has no row in the opcode map. -/
  | invalidSelect (sel : BitVec 9)
  /-- R42: `arg_val` is not 32 bytes (log 13). -/
  | valueLength (n : Nat)
  deriving DecidableEq, Repr

/-- One row of the opcode map: the select, and the command it names with its payload fields. -/
structure OpRow where
  sel : BitVec 9
  build : Command → Instr

/-- R96: the arithmetic rows. -/
def arithmeticRows : List OpRow :=
  [ ⟨0x001, fun _ => .add⟩
  , ⟨0x002, fun _ => .mul⟩
  , ⟨0x003, fun _ => .sub⟩
  , ⟨0x004, fun _ => .div⟩
  , ⟨0x005, fun _ => .sdiv⟩
  , ⟨0x006, fun _ => .mod⟩
  , ⟨0x007, fun _ => .smod⟩
  , ⟨0x008, fun _ => .addmod⟩
  , ⟨0x009, fun _ => .mulmod⟩
  , ⟨0x00A, fun _ => .exp⟩
  , ⟨0x00B, fun _ => .signextend⟩
  ]

/-- R96: the comparison and bitwise rows. -/
def comparisonRows : List OpRow :=
  [ ⟨0x010, fun _ => .lt⟩
  , ⟨0x011, fun _ => .gt⟩
  , ⟨0x012, fun _ => .slt⟩
  , ⟨0x013, fun _ => .sgt⟩
  , ⟨0x014, fun _ => .eq⟩
  , ⟨0x015, fun _ => .iszero⟩
  , ⟨0x016, fun _ => .and⟩
  , ⟨0x017, fun _ => .or⟩
  , ⟨0x018, fun _ => .xor⟩
  , ⟨0x019, fun _ => .not⟩
  , ⟨0x01A, fun _ => .byte⟩
  , ⟨0x01B, fun _ => .shl⟩
  , ⟨0x01C, fun _ => .shr⟩
  , ⟨0x01D, fun _ => .sar⟩
  ]

/-- R96: the hashing, memory, POP and PUSH0 rows. -/
def memoryRows : List OpRow :=
  [ ⟨0x020, fun _ => .keccak256⟩
  , ⟨0x050, fun _ => .pop⟩
  , ⟨0x051, fun _ => .mload⟩
  , ⟨0x052, fun _ => .mstore⟩
  , ⟨0x053, fun _ => .mstore8⟩
  , ⟨0x05F, fun _ => .push0⟩
  ]

/-- R96: the PUSHN rows, `sel = 0x05F + N`. -/
def pushRows : List OpRow :=
  [ ⟨0x060, fun _ => .push1⟩
  , ⟨0x061, fun _ => .push2⟩
  , ⟨0x062, fun _ => .push3⟩
  , ⟨0x063, fun _ => .push4⟩
  , ⟨0x064, fun _ => .push5⟩
  , ⟨0x065, fun _ => .push6⟩
  , ⟨0x066, fun _ => .push7⟩
  , ⟨0x067, fun _ => .push8⟩
  , ⟨0x068, fun _ => .push9⟩
  , ⟨0x069, fun _ => .push10⟩
  , ⟨0x06A, fun _ => .push11⟩
  , ⟨0x06B, fun _ => .push12⟩
  , ⟨0x06C, fun _ => .push13⟩
  , ⟨0x06D, fun _ => .push14⟩
  , ⟨0x06E, fun _ => .push15⟩
  , ⟨0x06F, fun _ => .push16⟩
  , ⟨0x070, fun _ => .push17⟩
  , ⟨0x071, fun _ => .push18⟩
  , ⟨0x072, fun _ => .push19⟩
  , ⟨0x073, fun _ => .push20⟩
  , ⟨0x074, fun _ => .push21⟩
  , ⟨0x075, fun _ => .push22⟩
  , ⟨0x076, fun _ => .push23⟩
  , ⟨0x077, fun _ => .push24⟩
  , ⟨0x078, fun _ => .push25⟩
  , ⟨0x079, fun _ => .push26⟩
  , ⟨0x07A, fun _ => .push27⟩
  , ⟨0x07B, fun _ => .push28⟩
  , ⟨0x07C, fun _ => .push29⟩
  , ⟨0x07D, fun _ => .push30⟩
  , ⟨0x07E, fun _ => .push31⟩
  , ⟨0x07F, fun _ => .push32⟩
  ]

/-- R96: the DUPN rows, `sel = 0x07F + N`. -/
def dupRows : List OpRow :=
  [ ⟨0x080, fun _ => .dup1⟩
  , ⟨0x081, fun _ => .dup2⟩
  , ⟨0x082, fun _ => .dup3⟩
  , ⟨0x083, fun _ => .dup4⟩
  , ⟨0x084, fun _ => .dup5⟩
  , ⟨0x085, fun _ => .dup6⟩
  , ⟨0x086, fun _ => .dup7⟩
  , ⟨0x087, fun _ => .dup8⟩
  , ⟨0x088, fun _ => .dup9⟩
  , ⟨0x089, fun _ => .dup10⟩
  , ⟨0x08A, fun _ => .dup11⟩
  , ⟨0x08B, fun _ => .dup12⟩
  , ⟨0x08C, fun _ => .dup13⟩
  , ⟨0x08D, fun _ => .dup14⟩
  , ⟨0x08E, fun _ => .dup15⟩
  , ⟨0x08F, fun _ => .dup16⟩
  ]

/-- R96: the SWAPN rows, `sel = 0x08F + N`. -/
def swapRows : List OpRow :=
  [ ⟨0x090, fun _ => .swap1⟩
  , ⟨0x091, fun _ => .swap2⟩
  , ⟨0x092, fun _ => .swap3⟩
  , ⟨0x093, fun _ => .swap4⟩
  , ⟨0x094, fun _ => .swap5⟩
  , ⟨0x095, fun _ => .swap6⟩
  , ⟨0x096, fun _ => .swap7⟩
  , ⟨0x097, fun _ => .swap8⟩
  , ⟨0x098, fun _ => .swap9⟩
  , ⟨0x099, fun _ => .swap10⟩
  , ⟨0x09A, fun _ => .swap11⟩
  , ⟨0x09B, fun _ => .swap12⟩
  , ⟨0x09C, fun _ => .swap13⟩
  , ⟨0x09D, fun _ => .swap14⟩
  , ⟨0x09E, fun _ => .swap15⟩
  , ⟨0x09F, fun _ => .swap16⟩
  ]

/-- R97: the component-port rows, each with the payload fields it takes in. -/
def portRows : List OpRow :=
  [ ⟨0x100, fun c => .stkPush c.argWord⟩
  , ⟨0x101, fun _ => .stkPop⟩
  , ⟨0x102, fun c => .stkPeek c.argDepth⟩
  , ⟨0x103, fun c => .stkSwap c.argDepth⟩
  , ⟨0x104, fun _ => .stkSize⟩
  , ⟨0x110, fun c => .memStore c.argBytes c.argOff⟩
  , ⟨0x111, fun c => .memLoad c.argOff c.argSize⟩
  , ⟨0x112, fun c => .memLoadB c.argOff⟩
  , ⟨0x113, fun c => .memLoadW c.argOff⟩
  , ⟨0x114, fun c => .memStoreB c.argByte c.argOff⟩
  , ⟨0x115, fun c => .memStoreW c.argWord c.argOff⟩
  , ⟨0x120, fun c => .stoStore c.argKey c.argVal⟩
  , ⟨0x121, fun c => .stoLoad c.argKey⟩
  ]

/-- R96, R97: the whole opcode map. -/
def opcodeRows : List OpRow :=
  arithmeticRows ++ comparisonRows ++ memoryRows ++ pushRows ++ dupRows ++ swapRows ++ portRows

/-- R96: the row of a select; the whole select is matched (mask `0x1FF`). -/
def rowOf (sel : BitVec 9) : Option OpRow :=
  opcodeRows.find? (fun r => r.sel == sel)

/-- R98, R100: the command a transfer names, or the reason there is none. It is total and depends on the transfer
alone. -/
def decode (c : Command) : Except DecodeError Instr :=
  match rowOf c.sel with
  | none => .error (.invalidSelect c.sel)
  | some r => if (r.build c).wellFormed then .ok (r.build c) else .error (.valueLength c.argVal.length)

/-- R90: the nine bits of select in the first `nbits` bits of a table word; the word's bits above bit 8 name no line of
the port, so a word that sets one is no select. -/
def tableSel (nbits w : Nat) : Option (BitVec 9) :=
  if w % 2 ^ nbits < 512 then some (BitVec.ofNat 9 (w % 2 ^ nbits)) else none

/-- The command the decoder reads from a row of spec/opcode_table.json, its payload fields zero (log 14). -/
def decodeTableWord (nbits w : Nat) : Option Instr :=
  match tableSel nbits w with
  | none => none
  | some sel => (decode (Command.ofSel sel)).toOption

/-- R96, R97: the select of a command. -/
def Instr.sel : Instr → BitVec 9
  | .add => 0x001
  | .mul => 0x002
  | .sub => 0x003
  | .div => 0x004
  | .sdiv => 0x005
  | .mod => 0x006
  | .smod => 0x007
  | .addmod => 0x008
  | .mulmod => 0x009
  | .exp => 0x00A
  | .signextend => 0x00B
  | .lt => 0x010
  | .gt => 0x011
  | .slt => 0x012
  | .sgt => 0x013
  | .eq => 0x014
  | .iszero => 0x015
  | .and => 0x016
  | .or => 0x017
  | .xor => 0x018
  | .not => 0x019
  | .byte => 0x01A
  | .shl => 0x01B
  | .shr => 0x01C
  | .sar => 0x01D
  | .keccak256 => 0x020
  | .pop => 0x050
  | .mload => 0x051
  | .mstore => 0x052
  | .mstore8 => 0x053
  | .push0 => 0x05F
  | .push1 => 0x060
  | .push2 => 0x061
  | .push3 => 0x062
  | .push4 => 0x063
  | .push5 => 0x064
  | .push6 => 0x065
  | .push7 => 0x066
  | .push8 => 0x067
  | .push9 => 0x068
  | .push10 => 0x069
  | .push11 => 0x06A
  | .push12 => 0x06B
  | .push13 => 0x06C
  | .push14 => 0x06D
  | .push15 => 0x06E
  | .push16 => 0x06F
  | .push17 => 0x070
  | .push18 => 0x071
  | .push19 => 0x072
  | .push20 => 0x073
  | .push21 => 0x074
  | .push22 => 0x075
  | .push23 => 0x076
  | .push24 => 0x077
  | .push25 => 0x078
  | .push26 => 0x079
  | .push27 => 0x07A
  | .push28 => 0x07B
  | .push29 => 0x07C
  | .push30 => 0x07D
  | .push31 => 0x07E
  | .push32 => 0x07F
  | .dup1 => 0x080
  | .dup2 => 0x081
  | .dup3 => 0x082
  | .dup4 => 0x083
  | .dup5 => 0x084
  | .dup6 => 0x085
  | .dup7 => 0x086
  | .dup8 => 0x087
  | .dup9 => 0x088
  | .dup10 => 0x089
  | .dup11 => 0x08A
  | .dup12 => 0x08B
  | .dup13 => 0x08C
  | .dup14 => 0x08D
  | .dup15 => 0x08E
  | .dup16 => 0x08F
  | .swap1 => 0x090
  | .swap2 => 0x091
  | .swap3 => 0x092
  | .swap4 => 0x093
  | .swap5 => 0x094
  | .swap6 => 0x095
  | .swap7 => 0x096
  | .swap8 => 0x097
  | .swap9 => 0x098
  | .swap10 => 0x099
  | .swap11 => 0x09A
  | .swap12 => 0x09B
  | .swap13 => 0x09C
  | .swap14 => 0x09D
  | .swap15 => 0x09E
  | .swap16 => 0x09F
  | .stkPush _ => 0x100
  | .stkPop => 0x101
  | .stkPeek _ => 0x102
  | .stkSwap _ => 0x103
  | .stkSize => 0x104
  | .memStore _ _ => 0x110
  | .memLoad _ _ => 0x111
  | .memLoadB _ => 0x112
  | .memLoadW _ => 0x113
  | .memStoreB _ _ => 0x114
  | .memStoreW _ _ => 0x115
  | .stoStore _ _ => 0x120
  | .stoLoad _ => 0x121

/-- R91, R92, R97: the transfer of a command, the payload fields it does not use zero. -/
def encode (i : Instr) : Command :=
  let c := Command.ofSel i.sel
  match i with
  | .stkPush v => { c with argWord := v }
  | .stkPeek v => { c with argDepth := v }
  | .stkSwap v => { c with argDepth := v }
  | .memStore v p => { c with argBytes := v, argOff := p }
  | .memLoad p n => { c with argOff := p, argSize := n }
  | .memLoadB v => { c with argOff := v }
  | .memLoadW v => { c with argOff := v }
  | .memStoreB v p => { c with argByte := v, argOff := p }
  | .memStoreW v p => { c with argWord := v, argOff := p }
  | .stoStore k v => { c with argKey := k, argVal := v }
  | .stoLoad k => { c with argKey := k }
  | .add | .mul | .sub | .div | .sdiv | .mod | .smod | .addmod | .mulmod | .exp | .signextend | .lt | .gt
  | .slt | .sgt | .eq | .iszero | .and | .or | .xor | .not | .byte | .shl | .shr | .sar | .keccak256 | .pop
  | .mload | .mstore | .mstore8 | .push0 | .push1 | .push2 | .push3 | .push4 | .push5 | .push6 | .push7
  | .push8 | .push9 | .push10 | .push11 | .push12 | .push13 | .push14 | .push15 | .push16 | .push17 | .push18
  | .push19 | .push20 | .push21 | .push22 | .push23 | .push24 | .push25 | .push26 | .push27 | .push28
  | .push29 | .push30 | .push31 | .push32 | .dup1 | .dup2 | .dup3 | .dup4 | .dup5 | .dup6 | .dup7 | .dup8
  | .dup9 | .dup10 | .dup11 | .dup12 | .dup13 | .dup14 | .dup15 | .dup16 | .swap1 | .swap2 | .swap3 | .swap4
  | .swap5 | .swap6 | .swap7 | .swap8 | .swap9 | .swap10 | .swap11 | .swap12 | .swap13 | .swap14 | .swap15
  | .swap16 | .stkPop | .stkSize => c

end Sys2Proof
end

