-- ==== Sys2Proof/Machine/State.lean ====
section
/-! DEFINITION. The state of the Engine and of its ports (R20, R40 to R46), the ways a step can stop, and reset. -/

namespace Sys2Proof.Machine

/-- R301: the error kinds. An error is a status in the response, never a stop of the machine (R300, R312). -/
inductive ErrorKind where
  /-- R302: a push at capacity. -/
  | stackOverflow
  /-- R303: fewer Words on the stack than the command takes. -/
  | stackUnderflow
  /-- R304: addressing by depth on an empty stack. -/
  | emptyStack
  /-- R305: a depth greater than the size of a non-empty stack. -/
  | indexOutOfRange
  /-- R306: never raised. -/
  | invalidPushSize
  /-- R306: never raised. -/
  | invalidDupSize
  /-- R306: never raised. -/
  | invalidSwapSize
  /-- R307: fewer than N bytes of `code` after `pc`. -/
  | pushSizeExceedsCodeSize
  deriving DecidableEq, Repr

/-- R43: the result of a command that answered OK. A field the command does not produce is absent. -/
inductive Result where
  | none
  | word (rspWord : Word)
  | byte (rspByte : Byte)
  | bytes (rspBytes : Bytes)
  | val (rspVal : Bytes)
  | size (rspSize : Nat)
  deriving DecidableEq, Repr

/-- R43: one response. When the status is not OK there is no result to read. -/
inductive Response where
  | ok (r : Result)
  | error (e : ErrorKind)
  deriving DecidableEq, Repr

/-- R29, R30: Memory. `cells` lists the bytes that are not zero, addresses strictly rising; `mlen` is the length. -/
structure Memory where
  cells : List Host.Cell
  mlen : Nat
  deriving DecidableEq, Repr

/-- R31: Storage, a total map. `base` is the map it started as: none for all zero, else the number of a map of
`Config.stoInit` (log 9). `cells` lists the keys whose value is not the one there, strictly rising. -/
structure Storage where
  base : Option Nat
  cells : List (Int × Bytes)
  deriving DecidableEq, Repr

/-- The machine. The first four fields are the six variables of R20 (`size` is the length of `stack`, `mlen` is in
`mem`). `code` and `params` are the parameters of the step (R17), which no command writes (log 1, log 2). The last three
are what stands on the command, response and hash ports (R42 to R44; log 3, log 4). -/
structure State where
  /-- R22: the Stack, its top first. Depth `d` is position `d - 1`. -/
  stack : List Word
  /-- R29: Memory. -/
  mem : Memory
  /-- R31: Storage. -/
  sto : Storage
  /-- R25: the cursor into `code`. -/
  pc : Nat
  /-- R28: the immutable instruction bytes. -/
  code : Bytes
  /-- R10: the parameters of this Engine. -/
  params : Config
  /-- R42, R19: the commands the host has still to present, the next one first. -/
  cmdPort : List Command
  /-- R43: the last response, none before the first. -/
  rspPort : Option Response
  /-- R44: the request the last command made on the hash port, none if it made none. -/
  hashPort : Option Bytes
  deriving DecidableEq, Repr

/-- R300, R312: the Engine has no machine fault, so this type has no member: every error is a status in the response
and the machine goes on. -/
inductive Fault where
  deriving DecidableEq, Repr

/-- R18: the inputs the spec gives no meaning. Each is safe: the model stops where hardware may go on. -/
inductive Refusal where
  /-- A command without a meaning in this model; raised by an arm of exec. Safe. -/
  | notModelled (mnemonic : String)
  /-- R98, U1: a select with no row in the opcode map; raised by step. Safe. -/
  | invalidSelect (sel : BitVec 9)
  /-- R42: a transfer whose `arg_val` is not 32 bytes; raised by step (log 13). Safe. -/
  | valueLength (n : Nat)
  /-- R122, U2: a depth below 1 on a non-empty stack; raised by STK.PEEK. Safe. -/
  | peekDepth (d : Int)
  /-- R123, U3: a depth below 2 on a non-empty stack; raised by STK.SWAP. Safe. -/
  | swapDepth (d : Int)
  /-- R10, R42: an `arg_key` that is not in KeyT; raised by STO.STORE, STO.LOAD (log 9). Safe. -/
  | keyRange (k : Int)
  /-- R73, U4: a Word used as an offset or size above OFFSET_LIMIT; raised by MLOAD, MSTORE, MSTORE8, KECCAK256. Safe. -/
  | offsetLimit (n : Nat)
  /-- R74, U5: a Memory end above MEM_LIMIT; raised by MSTORE, MSTORE8, MEM.STORE, MEM.STOREB, MEM.STOREW. Safe. -/
  | memLimit (n : Nat)
  deriving DecidableEq, Repr

/-- The outcome of a command. -/
abbrev Out := Host.Outcome State Fault Refusal

/-- R50: the Engine as the construction port leaves it, with an empty `code`, no Storage snapshot and the default
parameters (log 2), before the host presents a command (log 3, log 4). -/
def State.reset : State :=
  { stack := [], mem := { cells := [], mlen := 0 }, sto := { base := none, cells := [] }, pc := 0, code := [],
    params := {}, cmdPort := [], rspPort := none, hashPort := none }

/-- R45: what the observation port shows. -/
structure Observation where
  size : Nat
  /-- Bottom first, as the spec writes a stack. -/
  stk : List Word
  mlen : Nat
  mem : Bytes
  sto : Storage
  pc : Nat
  deriving DecidableEq, Repr

end Sys2Proof.Machine
end

