-- ==== Sys2Proof/Machine/Ops.lean ====
section
/-! DEFINITION. The named operations over the state: sparse maps, Memory, Storage, the Stack, the response, and fetching
the next command. -/

namespace Sys2Proof.Machine

/-! ## Sparse maps in canonical form -/

/-- The value at a key `k`, `d k` when it is not listed. -/
def cellsGet {κ β : Type} [DecidableEq κ] (d : κ → β) : List (κ × β) → κ → β
  | [], k => d k
  | c :: l, k => if c.1 = k then c.2 else cellsGet d l k

/-- The list without a key. -/
def cellsDel {κ β : Type} [DecidableEq κ] (l : List (κ × β)) (k : κ) : List (κ × β) :=
  l.filter fun c => c.1 ≠ k

/-- The list with a new key at its place in the rising order. -/
def cellsIns {κ β : Type} [LT κ] [DecidableLT κ] : List (κ × β) → κ → β → List (κ × β)
  | [], k, v => [(k, v)]
  | c :: l, k, v => if k < c.1 then (k, v) :: c :: l else c :: cellsIns l k v

/-- The list with the value at a key replaced; the value of an unlisted key removes the entry. -/
def cellsSet {κ β : Type} [DecidableEq κ] [LT κ] [DecidableLT κ] [DecidableEq β] (d : κ → β) (l : List (κ × β))
    (k : κ) (v : β) : List (κ × β) :=
  if v = d k then cellsDel l k else cellsIns (cellsDel l k) k v

/-- Canonical form: keys strictly rise, and no entry has the value of an unlisted key. -/
abbrev CellsCanonical {κ β : Type} [LT κ] (d : κ → β) (l : List (κ × β)) : Prop :=
  l.Pairwise (fun a b => a.1 < b.1) ∧ ∀ c ∈ l, c.2 ≠ d c.1

/-! ## Memory (spec/20_memory.md) -/

/-- R29, R63: what an address with no entry holds; a new tail is zero-filled. -/
def Memory.unlisted (_ : Nat) : Byte := 0

/-- The canonical form of Memory: every entry is below `mlen`. -/
abbrev Memory.wf (m : Memory) : Prop :=
  CellsCanonical Memory.unlisted m.cells ∧ ∀ c ∈ m.cells, c.1 < m.mlen

/-- R62: one byte, zero at and past `mlen`. -/
def Memory.readByte (m : Memory) (a : Nat) : Byte :=
  if a < m.mlen then cellsGet Memory.unlisted m.cells a else 0

/-- R62: `MemRead(addr, n)`. -/
def Memory.read (m : Memory) (a : Nat) : Nat → Bytes
  | 0 => []
  | n + 1 => m.readByte a :: m.read (a + 1) n

/-- R63: growth to `n` bytes, the new tail zero-filled. -/
def Memory.grow (m : Memory) (n : Nat) : Memory :=
  if n > m.mlen then { cells := m.cells.filter fun c => c.1 < m.mlen, mlen := n } else m

/-- R63: the bytes `v` at `a`, `a + 1`, and on. -/
def writeCells : List Host.Cell → Nat → Bytes → List Host.Cell
  | l, _, [] => l
  | l, a, b :: v => writeCells (cellsSet Memory.unlisted l a b) (a + 1) v

/-- R63: `MemWrite(addr, len(v), v)`. The test is on `addr + len(v)` also when `v` is empty (R65). -/
def Memory.write (m : Memory) (a : Nat) (v : Bytes) : Memory :=
  let g := m.grow (a + v.length)
  { g with cells := writeCells g.cells a v }

/-! ## Storage (spec/42_storage_component.md) -/

/-- R31: what a key never written reads as: 32 zero bytes, or the value `sto_init` gives it. -/
def Storage.unlisted (st : Storage) (k : Int) : Bytes :=
  match st.base with
  | none => zeros 32
  | some n => (Config.stoInit n k).toList

/-- The canonical form of Storage: every value is 32 bytes. -/
abbrev Storage.wf (st : Storage) : Prop :=
  CellsCanonical st.unlisted st.cells ∧ ∀ c ∈ st.cells, c.2.length = 32

/-- R141: `sto[k]`. -/
def Storage.read (st : Storage) (k : Int) : Bytes := cellsGet st.unlisted st.cells k

/-- R140: `sto[k] <- v`. -/
def Storage.write (st : Storage) (k : Int) (v : Bytes) : Storage :=
  { st with cells := cellsSet st.unlisted st.cells k v }

/-! ## Updates of the state -/

/-- The state with another Stack. -/
def State.withStack (s : State) (l : List Word) : State := { s with stack := l }

/-- The state with another Memory. -/
def State.withMem (s : State) (m : Memory) : State := { s with mem := m }

/-- The state with another Storage. -/
def State.withSto (s : State) (st : Storage) : State := { s with sto := st }

/-- The state with another `pc`. -/
def State.withPc (s : State) (n : Nat) : State := { s with pc := n }

/-- The state with another list of commands to present. -/
def State.withCmds (s : State) (l : List Command) : State := { s with cmdPort := l }

/-- The state with a response on the response port and what the command asked of the hash port. -/
def State.answered (s : State) (r : Response) (h : Option Bytes) : State := { s with rspPort := some r, hashPort := h }

/-! ## The response (R43, R300, R312) -/

/-- R300: `raise E`. The one way an error is taken: the response carries the kind and every state variable keeps its
value. Nothing is saved, no mode changes, control goes nowhere (R312), and there is no return from it (R313): the Engine
takes the next command. -/
def raise (e : ErrorKind) (s : State) : Out := .next (s.answered (.error e) none)

/-- R14: `respond OK(r)`. -/
def respond (r : Result) (s : State) : Out := .next (s.answered (.ok r) none)

/-- R43, R301: the status codes. -/
def ErrorKind.code : ErrorKind → BitVec 4
  | .stackOverflow => 1
  | .stackUnderflow => 2
  | .emptyStack => 3
  | .indexOutOfRange => 4
  | .invalidPushSize => 5
  | .invalidDupSize => 6
  | .invalidSwapSize => 7
  | .pushSizeExceedsCodeSize => 8

/-- R43: the status field of a response. -/
def Response.status : Response → BitVec 4
  | .ok _ => 0
  | .error e => e.code

/-! ## The Stack primitives (spec/40_stack_component.md) -/

/-- R22: `size`. -/
def State.size (s : State) : Nat := s.stack.length

/-- R120: `Push(v)`. -/
def push (v : Word) (s : State) : Except ErrorKind State :=
  if s.size = Config.stackCap then .error .stackOverflow else .ok (s.withStack (v :: s.stack))

/-- R121: `Pop()`. -/
def pop (s : State) : Except ErrorKind (Word × State) :=
  match s.stack with
  | [] => .error .stackUnderflow
  | v :: l => .ok (v, s.withStack l)

/-- R122: `Peek(d)` for `d ≥ 1`. -/
def peek (d : Nat) (s : State) : Except ErrorKind Word :=
  match s.stack with
  | [] => .error .emptyStack
  | v :: l =>
    match (v :: l)[d - 1]? with
    | none => .error .indexOutOfRange
    | some w => .ok w

/-- R123: `Swap(d)` for `d ≥ 2`. -/
def swap (d : Nat) (s : State) : Except ErrorKind State :=
  match s.stack with
  | [] => .error .emptyStack
  | t :: l =>
    match l[d - 2]? with
    | none => .error .indexOutOfRange
    | some w => .ok (s.withStack (w :: l.set (d - 2) t))

/-- R14: when a primitive raises, the whole command raises, in the state the command was issued in; else it responds
OK. -/
def complete (s : State) (r : Result) (x : Except ErrorKind State) : Out :=
  match x with
  | .error e => raise e s
  | .ok t => respond r t

/-! ## Bounds of the model (R73, R74) -/

/-- R73: the natural number a popped Word stands for as an offset or size: its exact unsigned value, refused above
OFFSET_LIMIT. -/
def wordToOffset (s : State) (w : Word) : Except Refusal Nat :=
  match s.params.offsetLimit with
  | none => .ok (U w)
  | some limit => if U w ≤ limit then .ok (U w) else .error (.offsetLimit (U w))

/-- R63, R74: store bytes in Memory, refused when the write would end above MEM_LIMIT. -/
def storeMem (s : State) (a : Nat) (v : Bytes) : Except Refusal State :=
  match s.params.memLimit with
  | none => .ok (s.withMem (s.mem.write a v))
  | some limit =>
    if a + v.length ≤ limit then .ok (s.withMem (s.mem.write a v)) else .error (.memLimit (a + v.length))

/-- R10, D14: the key is in KeyT. -/
def keyInType (p : Config) (k : Int) : Bool :=
  p.keyMin.all (fun lo => decide (lo ≤ k)) && p.keyMax.all (fun hi => decide (k ≤ hi))

/-! ## The command, construction and observation ports -/

/-- R46: take the next command off the command port; none when the host presents nothing. -/
def fetch (s : State) : Option (Command × State) :=
  match s.cmdPort with
  | [] => none
  | c :: l => some (c, s.withCmds l)

/-- R98: a transfer that is no command is refused, under the decoder's reason. -/
def refusalOf : DecodeError → Refusal
  | .invalidSelect sel => .invalidSelect sel
  | .valueLength n => .valueLength n

/-- R42: the host presents commands, after those already waiting. -/
def State.present (s : State) (cs : List Command) : State := s.withCmds (s.cmdPort ++ cs)

/-- R41, R50: construction with the parameters, `code` and `sto_init`. The snapshot is a total map (`base`: none for all
zero, else a map of `Config.stoInit`) changed at the listed keys; where a key is listed twice the later value stands
(log 9). Every value is 32 bytes by its type, as R10 has it. -/
def State.construct (params : Config) (code : Bytes) (base : Option Nat) (pairs : List (Int × Vector Byte 32)) : State :=
  { State.reset with
    code, params, sto := pairs.foldl (fun st c => st.write c.1 c.2.toList) { base, cells := [] } }

/-- R45: the observation port, read-only. -/
def State.observe (s : State) : Observation :=
  { size := s.size, stk := s.stack.reverse, mlen := s.mem.mlen, mem := s.mem.read 0 s.mem.mlen, sto := s.sto, pc := s.pc }

end Sys2Proof.Machine
end

