-- ==== Sys2Proof/Machine/Operands.lean ====
section
/-! DEFINITION. The operand forms: Words taken from the stack (R150, R164, R15), a stored range (R196, R197), and the
immediate of PUSHN (R94). -/

namespace Sys2Proof.Machine

/-- R164: `x` and `y` from the first Word popped `a` and the second `b`. -/
def placeXY (o : BinopOrder) (a b : Word) : Word × Word :=
  match o with
  | .xTop => (a, b)
  | .yTop => (b, a)

/-- R150 with one operand. -/
def unaryOp (result : Word → Word) (s : State) : Out :=
  match s.stack with
  | a :: l => respond .none (s.withStack (result a :: l))
  | _ => raise .stackUnderflow s

/-- R150 with two operands named `x, y`, placed by R164. -/
def binaryXY (result : Word → Word → Word) (s : State) : Out :=
  match s.stack with
  | a :: b :: l =>
    let xy := placeXY s.params.binopOrder a b
    respond .none (s.withStack (result xy.1 xy.2 :: l))
  | _ => raise .stackUnderflow s

/-- R150 with two operands in a top-first list (R15), whatever BINOP_ORDER is. -/
def binaryTop (result : Word → Word → Word) (s : State) : Out :=
  match s.stack with
  | a :: b :: l => respond .none (s.withStack (result a b :: l))
  | _ => raise .stackUnderflow s

/-- R150 with three operands in a top-first list. -/
def ternaryTop (result : Word → Word → Word → Word) (s : State) : Out :=
  match s.stack with
  | a :: b :: c :: l => respond .none (s.withStack (result a b c :: l))
  | _ => raise .stackUnderflow s

/-- R196, R197: operands `[offset, value]`, top-first; store `bytes value` at `offset` and drop both. -/
def storeOp (bytes : Word → Bytes) (s : State) : Out :=
  match s.stack with
  | offset :: value :: l =>
    match wordToOffset s offset with
    | .error r => .refused r
    | .ok p =>
      match storeMem s p (bytes value) with
      | .error r => .refused r
      | .ok t => respond .none (t.withStack l)
  | _ => raise .stackUnderflow s

/-- R130, R134, R135: store bytes at a payload offset. -/
def storePort (bytes : Bytes) (p : Nat) (s : State) : Out :=
  match storeMem s p bytes with
  | .error r => .refused r
  | .ok t => respond .none t

/-- R94: the `n` bytes `code[pc+1 .. pc+n]`. -/
def operandBytes (s : State) (n : Nat) : Bytes := (s.code.drop (s.pc + 1)).take n

/-- R202: PUSHN. The code bound is tested before the push (R311). -/
def pushN (n : Nat) (s : State) : Out :=
  if s.pc + n + 1 > s.code.length then raise .pushSizeExceedsCodeSize s
  else
    match push (wordOfBytes (operandBytes s n)) s with
    | .error e => raise e s
    | .ok t => respond .none (t.withPc (s.pc + n + 1))

/-- R240: DUPN. -/
def dupN (n : Nat) (s : State) : Out :=
  match peek n s with
  | .error e => raise e s
  | .ok v => complete s .none (push v s)

/-- R260: SWAPN. -/
def swapN (n : Nat) (s : State) : Out := complete s .none (swap (n + 1) s)

end Sys2Proof.Machine
end

