-- ==== Sys2Proof/Machine/Arithmetic.lean ====
section
/-! DEFINITION. Arithmetic (R150 to R163, spec/43_arithmetic.md): for each command its result and its meaning. -/

namespace Sys2Proof.Machine

/-- R151. -/
def addResult (x y : Word) : Word := W (U x + U y)

/-- R152. -/
def mulResult (x y : Word) : Word := W (U x * U y)

/-- R153. -/
def subResult (x y : Word) : Word := W ((U x : Int) - U y)

/-- R154. -/
def divResult (x y : Word) : Word := if U y = 0 then W 0 else W (U x / U y : Nat)

/-- R155. -/
def sdivResult (x y : Word) : Word :=
  if U y = 0 then W 0
  else if S x = -2 ^ 255 ∧ S y = -1 then W (-2 ^ 255)
  else W ((S x).tdiv (S y))

/-- R156. -/
def modResult (x y : Word) : Word := if U y = 0 then W 0 else W (U x % U y : Nat)

/-- R157. -/
def smodResult (x y : Word) : Word :=
  if U y = 0 then W 0 else W ((S x).sign * ((S x).natAbs % (S y).natAbs : Nat))

/-- R158: the sum is exact, not reduced before the remainder. -/
def addmodResult (x y m : Word) : Word := if U m = 0 then W 0 else W ((U x + U y) % U m : Nat)

/-- R159: the product is exact, not reduced before the remainder. -/
def mulmodResult (x y m : Word) : Word := if U m = 0 then W 0 else W (U x * U y % U m : Nat)

/-- `b ^ e`, for `e < 2 ^ fuel`, by squaring: it can be evaluated at every exponent (log 18). -/
def powLoop : Nat → Word → Nat → Word
  | 0, _, _ => 1
  | fuel + 1, b, e =>
    if e = 0 then 1
    else if e % 2 = 1 then b * powLoop fuel (b * b) (e / 2)
    else powLoop fuel (b * b) (e / 2)

/-- R160: `W(U(x) ^ U(y))`. -/
def expResult (x y : Word) : Word := powLoop 256 x (U y)

/-- R161: bits `t..0` of `x` kept, `t = 8 * U(b) + 7`, the higher bits all equal to `x[t]`. -/
def signextendResult (x b : Word) : Word :=
  if U b ≥ 31 then x else (x.setWidth (8 * U b + 7 + 1)).signExtend 256

/-- R151. -/
def execAdd (s : State) : Out := binaryXY addResult s

/-- R152. -/
def execMul (s : State) : Out := binaryXY mulResult s

/-- R153. -/
def execSub (s : State) : Out := binaryXY subResult s

/-- R154. -/
def execDiv (s : State) : Out := binaryXY divResult s

/-- R155. -/
def execSdiv (s : State) : Out := binaryXY sdivResult s

/-- R156. -/
def execMod (s : State) : Out := binaryXY modResult s

/-- R157. -/
def execSmod (s : State) : Out := binaryXY smodResult s

/-- R158: operands `[x, y, m]`. -/
def execAddmod (s : State) : Out := ternaryTop addmodResult s

/-- R159: operands `[x, y, m]`. -/
def execMulmod (s : State) : Out := ternaryTop mulmodResult s

/-- R160. -/
def execExp (s : State) : Out := binaryXY expResult s

/-- R161: operands `[x, b]`. -/
def execSignextend (s : State) : Out := binaryTop signextendResult s

end Sys2Proof.Machine
end

