-- ==== Sys2Proof/Machine/Flags.lean ====
section
/-! DEFINITION. The Engine has no flags (R32, spec/10_state.md): a comparison's outcome is a Word on the stack. -/

namespace Sys2Proof.Machine

/-- R13, R170: a boolean as a Word, 1 or 0. -/
def boolWord (b : Bool) : Word := if b then W 1 else W 0

end Sys2Proof.Machine
end

