-- ==== Sys2Proof/Machine/Comparison.lean ====
section
/-! DEFINITION. Comparison and bitwise commands (R170 to R184, spec/44_comparison_bitwise.md): for each command its
result and its meaning. -/

namespace Sys2Proof.Machine

/-- R171. -/
def ltResult (x y : Word) : Word := boolWord (U x < U y)

/-- R172. -/
def gtResult (x y : Word) : Word := boolWord (U x > U y)

/-- R173. -/
def sltResult (x y : Word) : Word := boolWord (S x < S y)

/-- R174. -/
def sgtResult (x y : Word) : Word := boolWord (S x > S y)

/-- R175. -/
def eqResult (x y : Word) : Word := boolWord (x = y)

/-- R176. -/
def iszeroResult (x : Word) : Word := boolWord (U x = 0)

/-- R177. -/
def andResult (x y : Word) : Word := x &&& y

/-- R178. -/
def orResult (x y : Word) : Word := x ||| y

/-- R179. -/
def xorResult (x y : Word) : Word := x ^^^ y

/-- R180. -/
def notResult (x : Word) : Word := ~~~x

/-- R181: byte `i` of `x`, byte 0 the most significant. -/
def byteResult (i x : Word) : Word :=
  if U i ≥ 32 then W 0 else (x.extractLsb' (248 - 8 * U i) 8).setWidth 256

/-- R182. -/
def shlResult (shift value : Word) : Word := if U shift ≥ 256 then W 0 else W (U value * 2 ^ U shift : Nat)

/-- R183. -/
def shrResult (shift value : Word) : Word := if U shift ≥ 256 then W 0 else W (U value / 2 ^ U shift : Nat)

/-- R184: the quotient is rounded toward minus infinity. -/
def sarResult (shift value : Word) : Word :=
  if U shift ≥ 256 then if value.getLsbD 255 then W (-1) else W 0
  else W ((S value).fdiv (2 ^ U shift))

/-- R171. -/
def execLt (s : State) : Out := binaryXY ltResult s

/-- R172. -/
def execGt (s : State) : Out := binaryXY gtResult s

/-- R173. -/
def execSlt (s : State) : Out := binaryXY sltResult s

/-- R174. -/
def execSgt (s : State) : Out := binaryXY sgtResult s

/-- R175. -/
def execEq (s : State) : Out := binaryXY eqResult s

/-- R176. -/
def execIszero (s : State) : Out := unaryOp iszeroResult s

/-- R177. -/
def execAnd (s : State) : Out := binaryXY andResult s

/-- R178. -/
def execOr (s : State) : Out := binaryXY orResult s

/-- R179. -/
def execXor (s : State) : Out := binaryXY xorResult s

/-- R180. -/
def execNot (s : State) : Out := unaryOp notResult s

/-- R181: operands `[i, x]`. -/
def execByte (s : State) : Out := binaryTop byteResult s

/-- R182: operands `[shift, value]`. -/
def execShl (s : State) : Out := binaryTop shlResult s

/-- R183: operands `[shift, value]`. -/
def execShr (s : State) : Out := binaryTop shrResult s

/-- R184: operands `[shift, value]`. -/
def execSar (s : State) : Out := binaryTop sarResult s

end Sys2Proof.Machine
end

