-- ==== Sys2Proof/Machine/MemoryOps.lean ====
section
/-! DEFINITION. The memory commands (R195 to R198, spec/46_memory_ops.md) and the hashing command (R190 to R192,
spec/45_hashing.md). -/

namespace Sys2Proof.Machine

/-- R195: the offset is replaced by the Word at it; Memory does not grow. -/
def execMload (s : State) : Out :=
  match s.stack with
  | offset :: l =>
    match wordToOffset s offset with
    | .error r => .refused r
    | .ok p => respond .none (s.withStack (wordOfBytes (s.mem.read p 32) :: l))
  | _ => raise .stackUnderflow s

/-- R196. -/
def execMstore (s : State) : Out := storeOp be32 s

/-- R197: only the least significant byte of the value is stored. -/
def execMstore8 (s : State) : Out := storeOp (fun value => [value.setWidth 8]) s

/-- R190: operands `[offset, size]`, top-first. The bytes go out on the hash port, the digest comes back as a Word. -/
def execKeccak256 (s : State) : Out :=
  match s.stack with
  | offset :: sizeW :: l =>
    match wordToOffset s offset, wordToOffset s sizeW with
    | .error r, _ => .refused r
    | _, .error r => .refused r
    | .ok p, .ok n =>
      let data := s.mem.read p n
      let digest := (Config.keccak256 data).toList
      .next ((s.withStack (wordOfBytes digest :: l)).answered (.ok .none) (some data))
  | _ => raise .stackUnderflow s

end Sys2Proof.Machine
end

