-- ==== Sys2Proof/Machine/Ports.lean ====
section
/-! DEFINITION. The component-port commands: Stack (R120 to R125), Memory (R130 to R135) and Storage (R140 to R142). -/

namespace Sys2Proof.Machine

/-- R120. -/
def execStkPush (v : Word) (s : State) : Out := complete s .none (push v s)

/-- R121: the popped Word is the result. -/
def execStkPop (s : State) : Out :=
  match pop s with
  | .error e => raise e s
  | .ok (v, t) => respond (.word v) t

/-- R122: on a non-empty stack a depth below 1 has no meaning (D16). -/
def execStkPeek (d : Int) (s : State) : Out :=
  if s.size ≠ 0 ∧ d < 1 then .refused (.peekDepth d)
  else
    match peek d.toNat s with
    | .error e => raise e s
    | .ok v => respond (.word v) s

/-- R123: on a non-empty stack a depth below 2 has no meaning (D16). -/
def execStkSwap (d : Int) (s : State) : Out :=
  if s.size ≠ 0 ∧ d < 2 then .refused (.swapDepth d) else complete s .none (swap d.toNat s)

/-- R124. -/
def execStkSize (s : State) : Out := respond (.size s.size) s

/-- R130. -/
def execMemStore (v : Bytes) (p : Nat) (s : State) : Out := storePort v p s

/-- R131. -/
def execMemLoad (p n : Nat) (s : State) : Out := respond (.bytes (s.mem.read p n)) s

/-- R132. -/
def execMemLoadB (p : Nat) (s : State) : Out := respond (.byte (s.mem.readByte p)) s

/-- R133. -/
def execMemLoadW (p : Nat) (s : State) : Out := respond (.word (wordOfBytes (s.mem.read p 32))) s

/-- R134. -/
def execMemStoreB (v : Byte) (p : Nat) (s : State) : Out := storePort [v] p s

/-- R135. -/
def execMemStoreW (v : Word) (p : Nat) (s : State) : Out := storePort (be32 v) p s

/-- R140: an unconditional overwrite. A key outside KeyT is none the port carries (R42, log 9). -/
def execStoStore (k : Int) (v : Bytes) (s : State) : Out :=
  if keyInType s.params k then respond .none (s.withSto (s.sto.write k v)) else .refused (.keyRange k)

/-- R141. -/
def execStoLoad (k : Int) (s : State) : Out :=
  if keyInType s.params k then respond (.val (s.sto.read k)) s else .refused (.keyRange k)

end Sys2Proof.Machine
end

