-- ==== Sys2Proof/Machine/StackOps.lean ====
section
/-! DEFINITION. The stack commands (spec/47_stack_ops.md, spec/48_dup_swap.md): POP, PUSH0, and one meaning for each
member of the families PUSHN (R202), DUPN (R240) and SWAPN (R260). -/

namespace Sys2Proof.Machine

/-- R200: the discarded Word is not returned. -/
def execPop (s : State) : Out :=
  match pop s with
  | .error e => raise e s
  | .ok (_, t) => respond .none t

/-- R201: no byte of `code` is read; `pc` moves by PUSH0_PC_STEP (R26). -/
def execPush0 (s : State) : Out :=
  match push (W 0) s with
  | .error e => raise e s
  | .ok t => respond .none (t.withPc (s.pc + s.params.push0PcStep.val))

/-- R203. -/
def execPush1 (s : State) : Out := pushN 1 s

/-- R204. -/
def execPush2 (s : State) : Out := pushN 2 s

/-- R205. -/
def execPush3 (s : State) : Out := pushN 3 s

/-- R206. -/
def execPush4 (s : State) : Out := pushN 4 s

/-- R207. -/
def execPush5 (s : State) : Out := pushN 5 s

/-- R208. -/
def execPush6 (s : State) : Out := pushN 6 s

/-- R209. -/
def execPush7 (s : State) : Out := pushN 7 s

/-- R210. -/
def execPush8 (s : State) : Out := pushN 8 s

/-- R211. -/
def execPush9 (s : State) : Out := pushN 9 s

/-- R212. -/
def execPush10 (s : State) : Out := pushN 10 s

/-- R213. -/
def execPush11 (s : State) : Out := pushN 11 s

/-- R214. -/
def execPush12 (s : State) : Out := pushN 12 s

/-- R215. -/
def execPush13 (s : State) : Out := pushN 13 s

/-- R216. -/
def execPush14 (s : State) : Out := pushN 14 s

/-- R217. -/
def execPush15 (s : State) : Out := pushN 15 s

/-- R218. -/
def execPush16 (s : State) : Out := pushN 16 s

/-- R219. -/
def execPush17 (s : State) : Out := pushN 17 s

/-- R220. -/
def execPush18 (s : State) : Out := pushN 18 s

/-- R221. -/
def execPush19 (s : State) : Out := pushN 19 s

/-- R222. -/
def execPush20 (s : State) : Out := pushN 20 s

/-- R223. -/
def execPush21 (s : State) : Out := pushN 21 s

/-- R224. -/
def execPush22 (s : State) : Out := pushN 22 s

/-- R225. -/
def execPush23 (s : State) : Out := pushN 23 s

/-- R226. -/
def execPush24 (s : State) : Out := pushN 24 s

/-- R227. -/
def execPush25 (s : State) : Out := pushN 25 s

/-- R228. -/
def execPush26 (s : State) : Out := pushN 26 s

/-- R229. -/
def execPush27 (s : State) : Out := pushN 27 s

/-- R230. -/
def execPush28 (s : State) : Out := pushN 28 s

/-- R231. -/
def execPush29 (s : State) : Out := pushN 29 s

/-- R232. -/
def execPush30 (s : State) : Out := pushN 30 s

/-- R233. -/
def execPush31 (s : State) : Out := pushN 31 s

/-- R234. -/
def execPush32 (s : State) : Out := pushN 32 s

/-- R241. -/
def execDup1 (s : State) : Out := dupN 1 s

/-- R242. -/
def execDup2 (s : State) : Out := dupN 2 s

/-- R243. -/
def execDup3 (s : State) : Out := dupN 3 s

/-- R244. -/
def execDup4 (s : State) : Out := dupN 4 s

/-- R245. -/
def execDup5 (s : State) : Out := dupN 5 s

/-- R246. -/
def execDup6 (s : State) : Out := dupN 6 s

/-- R247. -/
def execDup7 (s : State) : Out := dupN 7 s

/-- R248. -/
def execDup8 (s : State) : Out := dupN 8 s

/-- R249. -/
def execDup9 (s : State) : Out := dupN 9 s

/-- R250. -/
def execDup10 (s : State) : Out := dupN 10 s

/-- R251. -/
def execDup11 (s : State) : Out := dupN 11 s

/-- R252. -/
def execDup12 (s : State) : Out := dupN 12 s

/-- R253. -/
def execDup13 (s : State) : Out := dupN 13 s

/-- R254. -/
def execDup14 (s : State) : Out := dupN 14 s

/-- R255. -/
def execDup15 (s : State) : Out := dupN 15 s

/-- R256. -/
def execDup16 (s : State) : Out := dupN 16 s

/-- R261. -/
def execSwap1 (s : State) : Out := swapN 1 s

/-- R262. -/
def execSwap2 (s : State) : Out := swapN 2 s

/-- R263. -/
def execSwap3 (s : State) : Out := swapN 3 s

/-- R264. -/
def execSwap4 (s : State) : Out := swapN 4 s

/-- R265. -/
def execSwap5 (s : State) : Out := swapN 5 s

/-- R266. -/
def execSwap6 (s : State) : Out := swapN 6 s

/-- R267. -/
def execSwap7 (s : State) : Out := swapN 7 s

/-- R268. -/
def execSwap8 (s : State) : Out := swapN 8 s

/-- R269. -/
def execSwap9 (s : State) : Out := swapN 9 s

/-- R270. -/
def execSwap10 (s : State) : Out := swapN 10 s

/-- R271. -/
def execSwap11 (s : State) : Out := swapN 11 s

/-- R272. -/
def execSwap12 (s : State) : Out := swapN 12 s

/-- R273. -/
def execSwap13 (s : State) : Out := swapN 13 s

/-- R274. -/
def execSwap14 (s : State) : Out := swapN 14 s

/-- R275. -/
def execSwap15 (s : State) : Out := swapN 15 s

/-- R276. -/
def execSwap16 (s : State) : Out := swapN 16 s

end Sys2Proof.Machine
end

