-- ==== Sys2Proof/Machine/Dispatch.lean ====
section
/-! DEFINITION. Every command to its meaning. -/

namespace Sys2Proof.Machine

def exec (i : Instr) (s : State) : Host.Outcome State Fault Refusal :=
  match i with
  | .add => Sys2Proof.Machine.execAdd s
  | .mul => Sys2Proof.Machine.execMul s
  | .sub => Sys2Proof.Machine.execSub s
  | .div => Sys2Proof.Machine.execDiv s
  | .sdiv => Sys2Proof.Machine.execSdiv s
  | .mod => Sys2Proof.Machine.execMod s
  | .smod => Sys2Proof.Machine.execSmod s
  | .addmod => Sys2Proof.Machine.execAddmod s
  | .mulmod => Sys2Proof.Machine.execMulmod s
  | .exp => Sys2Proof.Machine.execExp s
  | .signextend => Sys2Proof.Machine.execSignextend s
  | .lt => Sys2Proof.Machine.execLt s
  | .gt => Sys2Proof.Machine.execGt s
  | .slt => Sys2Proof.Machine.execSlt s
  | .sgt => Sys2Proof.Machine.execSgt s
  | .eq => Sys2Proof.Machine.execEq s
  | .iszero => Sys2Proof.Machine.execIszero s
  | .and => Sys2Proof.Machine.execAnd s
  | .or => Sys2Proof.Machine.execOr s
  | .xor => Sys2Proof.Machine.execXor s
  | .not => Sys2Proof.Machine.execNot s
  | .byte => Sys2Proof.Machine.execByte s
  | .shl => Sys2Proof.Machine.execShl s
  | .shr => Sys2Proof.Machine.execShr s
  | .sar => Sys2Proof.Machine.execSar s
  | .keccak256 => Sys2Proof.Machine.execKeccak256 s
  | .pop => Sys2Proof.Machine.execPop s
  | .mload => Sys2Proof.Machine.execMload s
  | .mstore => Sys2Proof.Machine.execMstore s
  | .mstore8 => Sys2Proof.Machine.execMstore8 s
  | .push0 => Sys2Proof.Machine.execPush0 s
  | .push1 => Sys2Proof.Machine.execPush1 s
  | .push2 => Sys2Proof.Machine.execPush2 s
  | .push3 => Sys2Proof.Machine.execPush3 s
  | .push4 => Sys2Proof.Machine.execPush4 s
  | .push5 => Sys2Proof.Machine.execPush5 s
  | .push6 => Sys2Proof.Machine.execPush6 s
  | .push7 => Sys2Proof.Machine.execPush7 s
  | .push8 => Sys2Proof.Machine.execPush8 s
  | .push9 => Sys2Proof.Machine.execPush9 s
  | .push10 => Sys2Proof.Machine.execPush10 s
  | .push11 => Sys2Proof.Machine.execPush11 s
  | .push12 => Sys2Proof.Machine.execPush12 s
  | .push13 => Sys2Proof.Machine.execPush13 s
  | .push14 => Sys2Proof.Machine.execPush14 s
  | .push15 => Sys2Proof.Machine.execPush15 s
  | .push16 => Sys2Proof.Machine.execPush16 s
  | .push17 => Sys2Proof.Machine.execPush17 s
  | .push18 => Sys2Proof.Machine.execPush18 s
  | .push19 => Sys2Proof.Machine.execPush19 s
  | .push20 => Sys2Proof.Machine.execPush20 s
  | .push21 => Sys2Proof.Machine.execPush21 s
  | .push22 => Sys2Proof.Machine.execPush22 s
  | .push23 => Sys2Proof.Machine.execPush23 s
  | .push24 => Sys2Proof.Machine.execPush24 s
  | .push25 => Sys2Proof.Machine.execPush25 s
  | .push26 => Sys2Proof.Machine.execPush26 s
  | .push27 => Sys2Proof.Machine.execPush27 s
  | .push28 => Sys2Proof.Machine.execPush28 s
  | .push29 => Sys2Proof.Machine.execPush29 s
  | .push30 => Sys2Proof.Machine.execPush30 s
  | .push31 => Sys2Proof.Machine.execPush31 s
  | .push32 => Sys2Proof.Machine.execPush32 s
  | .dup1 => Sys2Proof.Machine.execDup1 s
  | .dup2 => Sys2Proof.Machine.execDup2 s
  | .dup3 => Sys2Proof.Machine.execDup3 s
  | .dup4 => Sys2Proof.Machine.execDup4 s
  | .dup5 => Sys2Proof.Machine.execDup5 s
  | .dup6 => Sys2Proof.Machine.execDup6 s
  | .dup7 => Sys2Proof.Machine.execDup7 s
  | .dup8 => Sys2Proof.Machine.execDup8 s
  | .dup9 => Sys2Proof.Machine.execDup9 s
  | .dup10 => Sys2Proof.Machine.execDup10 s
  | .dup11 => Sys2Proof.Machine.execDup11 s
  | .dup12 => Sys2Proof.Machine.execDup12 s
  | .dup13 => Sys2Proof.Machine.execDup13 s
  | .dup14 => Sys2Proof.Machine.execDup14 s
  | .dup15 => Sys2Proof.Machine.execDup15 s
  | .dup16 => Sys2Proof.Machine.execDup16 s
  | .swap1 => Sys2Proof.Machine.execSwap1 s
  | .swap2 => Sys2Proof.Machine.execSwap2 s
  | .swap3 => Sys2Proof.Machine.execSwap3 s
  | .swap4 => Sys2Proof.Machine.execSwap4 s
  | .swap5 => Sys2Proof.Machine.execSwap5 s
  | .swap6 => Sys2Proof.Machine.execSwap6 s
  | .swap7 => Sys2Proof.Machine.execSwap7 s
  | .swap8 => Sys2Proof.Machine.execSwap8 s
  | .swap9 => Sys2Proof.Machine.execSwap9 s
  | .swap10 => Sys2Proof.Machine.execSwap10 s
  | .swap11 => Sys2Proof.Machine.execSwap11 s
  | .swap12 => Sys2Proof.Machine.execSwap12 s
  | .swap13 => Sys2Proof.Machine.execSwap13 s
  | .swap14 => Sys2Proof.Machine.execSwap14 s
  | .swap15 => Sys2Proof.Machine.execSwap15 s
  | .swap16 => Sys2Proof.Machine.execSwap16 s
  | .stkPush v => Sys2Proof.Machine.execStkPush v s
  | .stkPop => Sys2Proof.Machine.execStkPop s
  | .stkPeek d => Sys2Proof.Machine.execStkPeek d s
  | .stkSwap d => Sys2Proof.Machine.execStkSwap d s
  | .stkSize => Sys2Proof.Machine.execStkSize s
  | .memStore v p => Sys2Proof.Machine.execMemStore v p s
  | .memLoad p n => Sys2Proof.Machine.execMemLoad p n s
  | .memLoadB p => Sys2Proof.Machine.execMemLoadB p s
  | .memLoadW p => Sys2Proof.Machine.execMemLoadW p s
  | .memStoreB v p => Sys2Proof.Machine.execMemStoreB v p s
  | .memStoreW v p => Sys2Proof.Machine.execMemStoreW v p s
  | .stoStore k v => Sys2Proof.Machine.execStoStore k v s
  | .stoLoad k => Sys2Proof.Machine.execStoLoad k s

end Sys2Proof.Machine
end

