-- ==== Sys2Proof/Machine/Step.lean ====
section
/-! DEFINITION. One step: the Engine takes the next command off the command port, performs it as one transition and
answers it (R46). It fetches nothing else: there is no program counter that selects a command (R327). -/

namespace Sys2Proof.Machine

/-- R46: one command. With no command presented the Engine holds its state (R325). -/
def step (s : State) : Host.Outcome State Fault Refusal :=
  match fetch s with
  | none => .next s
  | some (c, t) =>
    match decode c with
    | .error e => .refused (refusalOf e)
    | .ok i => exec i t

/-- The state in which the host presents next the command of a table word, its payload fields zero (log 3, log 14). A
word that is no nine-bit select cannot be presented. -/
def State.withFetchWord (s : State) (nbits w : Nat) : State :=
  match tableSel nbits w with
  | none => s
  | some sel => s.withCmds (Command.ofSel sel :: s.cmdPort)

end Sys2Proof.Machine
end

