-- ==== Sys2Proof/Safety.lean ====
section
/-! DEFINITION. The terms the statements use: the families, which commands the rules on errors and effects name, what a
command answered, and the invariant of the Engine. The machine does not use this file. -/

namespace Sys2Proof

/-- R94, R202: the family PUSHN, each `N` with its command. -/
def pushFamily : List (Nat × Instr) :=
  [ (1, .push1), (2, .push2), (3, .push3), (4, .push4), (5, .push5), (6, .push6), (7, .push7), (8, .push8),
    (9, .push9), (10, .push10), (11, .push11), (12, .push12), (13, .push13), (14, .push14), (15, .push15),
    (16, .push16), (17, .push17), (18, .push18), (19, .push19), (20, .push20), (21, .push21), (22, .push22),
    (23, .push23), (24, .push24), (25, .push25), (26, .push26), (27, .push27), (28, .push28), (29, .push29),
    (30, .push30), (31, .push31), (32, .push32) ]

/-- R94, R240: the family DUPN. -/
def dupFamily : List (Nat × Instr) :=
  [ (1, .dup1), (2, .dup2), (3, .dup3), (4, .dup4), (5, .dup5), (6, .dup6), (7, .dup7), (8, .dup8), (9, .dup9),
    (10, .dup10), (11, .dup11), (12, .dup12), (13, .dup13), (14, .dup14), (15, .dup15), (16, .dup16) ]

/-- R94, R260: the family SWAPN. -/
def swapFamily : List (Nat × Instr) :=
  [ (1, .swap1), (2, .swap2), (3, .swap3), (4, .swap4), (5, .swap5), (6, .swap6), (7, .swap7), (8, .swap8),
    (9, .swap9), (10, .swap10), (11, .swap11), (12, .swap12), (13, .swap13), (14, .swap14), (15, .swap15),
    (16, .swap16) ]

/-- R303: how many Words a command takes from the stack; 0 for one that takes none by that rule. -/
def Instr.operandCount : Instr → Nat
  | .stkPop | .pop | .iszero | .not | .mload => 1
  | .add | .mul | .sub | .div | .sdiv | .mod | .smod | .exp | .signextend | .lt | .gt | .slt | .sgt | .eq
  | .and | .or | .xor | .byte | .shl | .shr | .sar | .keccak256 | .mstore | .mstore8 => 2
  | .addmod | .mulmod => 3
  | .push0 | .push1 | .push2 | .push3 | .push4 | .push5 | .push6 | .push7 | .push8 | .push9 | .push10 | .push11
  | .push12 | .push13 | .push14 | .push15 | .push16 | .push17 | .push18 | .push19 | .push20 | .push21 | .push22
  | .push23 | .push24 | .push25 | .push26 | .push27 | .push28 | .push29 | .push30 | .push31 | .push32 | .dup1
  | .dup2 | .dup3 | .dup4 | .dup5 | .dup6 | .dup7 | .dup8 | .dup9 | .dup10 | .dup11 | .dup12 | .dup13 | .dup14
  | .dup15 | .dup16 | .swap1 | .swap2 | .swap3 | .swap4 | .swap5 | .swap6 | .swap7 | .swap8 | .swap9 | .swap10
  | .swap11 | .swap12 | .swap13 | .swap14 | .swap15 | .swap16 | .stkPush _ | .stkPeek _ | .stkSwap _ | .stkSize
  | .memStore _ _ | .memLoad _ _ | .memLoadB _ | .memLoadW _ | .memStoreB _ _ | .memStoreW _ _ | .stoStore _ _
  | .stoLoad _ => 0

/-- R304, R305: the depth a command addresses: `N` for DUPN, `N + 1` for SWAPN, the payload of STK.PEEK and STK.SWAP. -/
def Instr.depth : Instr → Option Int
  | .dup1 => some 1
  | .dup2 => some 2
  | .dup3 => some 3
  | .dup4 => some 4
  | .dup5 => some 5
  | .dup6 => some 6
  | .dup7 => some 7
  | .dup8 => some 8
  | .dup9 => some 9
  | .dup10 => some 10
  | .dup11 => some 11
  | .dup12 => some 12
  | .dup13 => some 13
  | .dup14 => some 14
  | .dup15 => some 15
  | .dup16 => some 16
  | .swap1 => some 2
  | .swap2 => some 3
  | .swap3 => some 4
  | .swap4 => some 5
  | .swap5 => some 6
  | .swap6 => some 7
  | .swap7 => some 8
  | .swap8 => some 9
  | .swap9 => some 10
  | .swap10 => some 11
  | .swap11 => some 12
  | .swap12 => some 13
  | .swap13 => some 14
  | .swap14 => some 15
  | .swap15 => some 16
  | .swap16 => some 17
  | .stkPeek d | .stkSwap d => some d
  | .add | .mul | .sub | .div | .sdiv | .mod | .smod | .addmod | .mulmod | .exp | .signextend | .lt | .gt
  | .slt | .sgt | .eq | .iszero | .and | .or | .xor | .not | .byte | .shl | .shr | .sar | .keccak256 | .pop
  | .mload | .mstore | .mstore8 | .push0 | .push1 | .push2 | .push3 | .push4 | .push5 | .push6 | .push7
  | .push8 | .push9 | .push10 | .push11 | .push12 | .push13 | .push14 | .push15 | .push16 | .push17 | .push18
  | .push19 | .push20 | .push21 | .push22 | .push23 | .push24 | .push25 | .push26 | .push27 | .push28 | .push29
  | .push30 | .push31 | .push32 | .stkPush _ | .stkPop | .stkSize | .memStore _ _ | .memLoad _ _ | .memLoadB _
  | .memLoadW _ | .memStoreB _ _ | .memStoreW _ _ | .stoStore _ _ | .stoLoad _ => none

/-- R202, R307: the `N` of PUSHN. -/
def Instr.immediateSize : Instr → Option Nat
  | .push1 => some 1
  | .push2 => some 2
  | .push3 => some 3
  | .push4 => some 4
  | .push5 => some 5
  | .push6 => some 6
  | .push7 => some 7
  | .push8 => some 8
  | .push9 => some 9
  | .push10 => some 10
  | .push11 => some 11
  | .push12 => some 12
  | .push13 => some 13
  | .push14 => some 14
  | .push15 => some 15
  | .push16 => some 16
  | .push17 => some 17
  | .push18 => some 18
  | .push19 => some 19
  | .push20 => some 20
  | .push21 => some 21
  | .push22 => some 22
  | .push23 => some 23
  | .push24 => some 24
  | .push25 => some 25
  | .push26 => some 26
  | .push27 => some 27
  | .push28 => some 28
  | .push29 => some 29
  | .push30 => some 30
  | .push31 => some 31
  | .push32 => some 32
  | .add | .mul | .sub | .div | .sdiv | .mod | .smod | .addmod | .mulmod | .exp | .signextend | .lt | .gt
  | .slt | .sgt | .eq | .iszero | .and | .or | .xor | .not | .byte | .shl | .shr | .sar | .keccak256 | .pop
  | .mload | .mstore | .mstore8 | .push0 | .dup1 | .dup2 | .dup3 | .dup4 | .dup5 | .dup6 | .dup7 | .dup8
  | .dup9 | .dup10 | .dup11 | .dup12 | .dup13 | .dup14 | .dup15 | .dup16 | .swap1 | .swap2 | .swap3 | .swap4
  | .swap5 | .swap6 | .swap7 | .swap8 | .swap9 | .swap10 | .swap11 | .swap12 | .swap13 | .swap14 | .swap15
  | .swap16 | .stkPush _ | .stkPop | .stkPeek _ | .stkSwap _ | .stkSize | .memStore _ _ | .memLoad _ _
  | .memLoadB _ | .memLoadW _ | .memStoreB _ _ | .memStoreW _ _ | .stoStore _ _ | .stoLoad _ => none

/-- R302: the commands that push onto a stack that did not first lose an element. -/
def Instr.pushesFirst : Instr → Bool
  | .stkPush _ | .push0 | .push1 | .push2 | .push3 | .push4 | .push5 | .push6 | .push7 | .push8 | .push9
  | .push10 | .push11 | .push12 | .push13 | .push14 | .push15 | .push16 | .push17 | .push18 | .push19 | .push20
  | .push21 | .push22 | .push23 | .push24 | .push25 | .push26 | .push27 | .push28 | .push29 | .push30 | .push31
  | .push32 | .dup1 | .dup2 | .dup3 | .dup4 | .dup5 | .dup6 | .dup7 | .dup8 | .dup9 | .dup10 | .dup11 | .dup12
  | .dup13 | .dup14 | .dup15 | .dup16 => true
  | .add | .mul | .sub | .div | .sdiv | .mod | .smod | .addmod | .mulmod | .exp | .signextend | .lt | .gt
  | .slt | .sgt | .eq | .iszero | .and | .or | .xor | .not | .byte | .shl | .shr | .sar | .keccak256 | .pop
  | .mload | .mstore | .mstore8 | .swap1 | .swap2 | .swap3 | .swap4 | .swap5 | .swap6 | .swap7 | .swap8
  | .swap9 | .swap10 | .swap11 | .swap12 | .swap13 | .swap14 | .swap15 | .swap16 | .stkPop | .stkPeek _
  | .stkSwap _ | .stkSize | .memStore _ _ | .memLoad _ _ | .memLoadB _ | .memLoadW _ | .memStoreB _ _
  | .memStoreW _ _ | .stoStore _ _ | .stoLoad _ => false

/-- R20, R29: the commands that write Memory. -/
def Instr.storesMemory : Instr → Bool
  | .mstore | .mstore8 | .memStore _ _ | .memStoreB _ _ | .memStoreW _ _ => true
  | .add | .mul | .sub | .div | .sdiv | .mod | .smod | .addmod | .mulmod | .exp | .signextend | .lt | .gt
  | .slt | .sgt | .eq | .iszero | .and | .or | .xor | .not | .byte | .shl | .shr | .sar | .keccak256 | .pop
  | .mload | .push0 | .push1 | .push2 | .push3 | .push4 | .push5 | .push6 | .push7 | .push8 | .push9 | .push10
  | .push11 | .push12 | .push13 | .push14 | .push15 | .push16 | .push17 | .push18 | .push19 | .push20 | .push21
  | .push22 | .push23 | .push24 | .push25 | .push26 | .push27 | .push28 | .push29 | .push30 | .push31 | .push32
  | .dup1 | .dup2 | .dup3 | .dup4 | .dup5 | .dup6 | .dup7 | .dup8 | .dup9 | .dup10 | .dup11 | .dup12 | .dup13
  | .dup14 | .dup15 | .dup16 | .swap1 | .swap2 | .swap3 | .swap4 | .swap5 | .swap6 | .swap7 | .swap8 | .swap9
  | .swap10 | .swap11 | .swap12 | .swap13 | .swap14 | .swap15 | .swap16 | .stkPush _ | .stkPop | .stkPeek _
  | .stkSwap _ | .stkSize | .memLoad _ _ | .memLoadB _ | .memLoadW _ | .stoStore _ _ | .stoLoad _ => false

/-- R164: the commands whose result depends on BINOP_ORDER. -/
def Instr.orderSensitive : Instr → Bool
  | .sub | .div | .sdiv | .mod | .smod | .exp | .lt | .gt | .slt | .sgt => true
  | .add | .mul | .addmod | .mulmod | .signextend | .eq | .iszero | .and | .or | .xor | .not | .byte | .shl
  | .shr | .sar | .keccak256 | .pop | .mload | .mstore | .mstore8 | .push0 | .push1 | .push2 | .push3 | .push4
  | .push5 | .push6 | .push7 | .push8 | .push9 | .push10 | .push11 | .push12 | .push13 | .push14 | .push15
  | .push16 | .push17 | .push18 | .push19 | .push20 | .push21 | .push22 | .push23 | .push24 | .push25 | .push26
  | .push27 | .push28 | .push29 | .push30 | .push31 | .push32 | .dup1 | .dup2 | .dup3 | .dup4 | .dup5 | .dup6
  | .dup7 | .dup8 | .dup9 | .dup10 | .dup11 | .dup12 | .dup13 | .dup14 | .dup15 | .dup16 | .swap1 | .swap2
  | .swap3 | .swap4 | .swap5 | .swap6 | .swap7 | .swap8 | .swap9 | .swap10 | .swap11 | .swap12 | .swap13
  | .swap14 | .swap15 | .swap16 | .stkPush _ | .stkPop | .stkPeek _ | .stkSwap _ | .stkSize | .memStore _ _
  | .memLoad _ _ | .memLoadB _ | .memLoadW _ | .memStoreB _ _ | .memStoreW _ _ | .stoStore _ _ | .stoLoad _ => false

/-- R90, R92: the component-port commands (class bit 1). -/
def Instr.isPort : Instr → Bool
  | .stkPush _ | .stkPop | .stkPeek _ | .stkSwap _ | .stkSize | .memStore _ _ | .memLoad _ _ | .memLoadB _
  | .memLoadW _ | .memStoreB _ _ | .memStoreW _ _ | .stoStore _ _ | .stoLoad _ => true
  | .add | .mul | .sub | .div | .sdiv | .mod | .smod | .addmod | .mulmod | .exp | .signextend | .lt | .gt
  | .slt | .sgt | .eq | .iszero | .and | .or | .xor | .not | .byte | .shl | .shr | .sar | .keccak256 | .pop
  | .mload | .mstore | .mstore8 | .push0 | .push1 | .push2 | .push3 | .push4 | .push5 | .push6 | .push7
  | .push8 | .push9 | .push10 | .push11 | .push12 | .push13 | .push14 | .push15 | .push16 | .push17 | .push18
  | .push19 | .push20 | .push21 | .push22 | .push23 | .push24 | .push25 | .push26 | .push27 | .push28 | .push29
  | .push30 | .push31 | .push32 | .dup1 | .dup2 | .dup3 | .dup4 | .dup5 | .dup6 | .dup7 | .dup8 | .dup9
  | .dup10 | .dup11 | .dup12 | .dup13 | .dup14 | .dup15 | .dup16 | .swap1 | .swap2 | .swap3 | .swap4 | .swap5
  | .swap6 | .swap7 | .swap8 | .swap9 | .swap10 | .swap11 | .swap12 | .swap13 | .swap14 | .swap15 | .swap16 => false

namespace Machine

/-- The error a command answered, if it answered one. -/
def errorOf : Out → Option ErrorKind
  | .next t =>
    match t.rspPort with
    | some (.error e) => some e
    | _ => none
  | .fault _ => none
  | .refused _ => none

/-- An outcome with the parameter BINOP_ORDER of its next state replaced. -/
def withOrder (o : BinopOrder) : Out → Out
  | .next t => .next { t with params := { t.params with binopOrder := o } }
  | .fault f => .fault f
  | .refused r => .refused r

/-- A Word may be used as an offset or size (R73). -/
abbrev State.offsetOk (s : State) (w : Word) : Prop := ∀ limit ∈ s.params.offsetLimit, U w ≤ limit

/-- The key is in KeyT (R10). -/
abbrev State.keyOk (s : State) (k : Int) : Prop := keyInType s.params k = true

/-- Memory may be written up to `n` (R74). -/
abbrev State.memOk (s : State) (n : Nat) : Prop := ∀ limit ∈ s.params.memLimit, n ≤ limit

/-- R73: the Words a command uses as offset or size, in the order it pops them; none when it answers StackUnderflow. -/
def offsetWords (s : State) : Instr → List Word
  | .mload => s.stack.take 1
  | .mstore | .mstore8 => if s.size < 2 then [] else s.stack.take 1
  | .keccak256 => if s.size < 2 then [] else s.stack.take 2
  | .add | .mul | .sub | .div | .sdiv | .mod | .smod | .addmod | .mulmod | .exp | .signextend | .lt | .gt | .slt
  | .sgt | .eq | .iszero | .and | .or | .xor | .not | .byte | .shl | .shr | .sar | .pop | .push0 | .push1 | .push2
  | .push3 | .push4 | .push5 | .push6 | .push7 | .push8 | .push9 | .push10 | .push11 | .push12 | .push13 | .push14
  | .push15 | .push16 | .push17 | .push18 | .push19 | .push20 | .push21 | .push22 | .push23 | .push24 | .push25
  | .push26 | .push27 | .push28 | .push29 | .push30 | .push31 | .push32 | .dup1 | .dup2 | .dup3 | .dup4 | .dup5
  | .dup6 | .dup7 | .dup8 | .dup9 | .dup10 | .dup11 | .dup12 | .dup13 | .dup14 | .dup15 | .dup16 | .swap1 | .swap2
  | .swap3 | .swap4 | .swap5 | .swap6 | .swap7 | .swap8 | .swap9 | .swap10 | .swap11 | .swap12 | .swap13 | .swap14
  | .swap15 | .swap16 | .stkPush _ | .stkPop | .stkPeek _ | .stkSwap _ | .stkSize | .memLoad _ _ | .memLoadB _
  | .memLoadW _ | .stoStore _ _ | .stoLoad _ | .memStore _ _ | .memStoreB _ _ | .memStoreW _ _ => []

/-- R63, R74: where the store of a command ends, `addr + n`; none for a command that stores nothing. -/
def storeEnd (s : State) : Instr → Option Nat
  | .mstore => if s.size < 2 then none else (s.stack[0]?).map fun p => U p + 32
  | .mstore8 => if s.size < 2 then none else (s.stack[0]?).map fun p => U p + 1
  | .memStore v p => some (p + v.length)
  | .memStoreB _ p => some (p + 1)
  | .memStoreW _ p => some (p + 32)
  | .add | .mul | .sub | .div | .sdiv | .mod | .smod | .addmod | .mulmod | .exp | .signextend | .lt | .gt | .slt
  | .sgt | .eq | .iszero | .and | .or | .xor | .not | .byte | .shl | .shr | .sar | .keccak256 | .pop | .mload
  | .push0 | .push1 | .push2 | .push3 | .push4 | .push5 | .push6 | .push7 | .push8 | .push9 | .push10 | .push11
  | .push12 | .push13 | .push14 | .push15 | .push16 | .push17 | .push18 | .push19 | .push20 | .push21 | .push22
  | .push23 | .push24 | .push25 | .push26 | .push27 | .push28 | .push29 | .push30 | .push31 | .push32 | .dup1
  | .dup2 | .dup3 | .dup4 | .dup5 | .dup6 | .dup7 | .dup8 | .dup9 | .dup10 | .dup11 | .dup12 | .dup13 | .dup14
  | .dup15 | .dup16 | .swap1 | .swap2 | .swap3 | .swap4 | .swap5 | .swap6 | .swap7 | .swap8 | .swap9 | .swap10
  | .swap11 | .swap12 | .swap13 | .swap14 | .swap15 | .swap16 | .stkPush _ | .stkPop | .stkPeek _ | .stkSwap _
  | .stkSize | .memLoad _ _ | .memLoadB _ | .memLoadW _ | .stoStore _ _ | .stoLoad _ => none

/-- R164: the operands `x` and `y` on top of the rest `l` of the Stack, as BINOP_ORDER places them. -/
abbrev State.operandsXY (s : State) (x y : Word) (l : List Word) : Prop :=
  (s.params.binopOrder = .xTop ∧ s.stack = x :: y :: l) ∨ (s.params.binopOrder = .yTop ∧ s.stack = y :: x :: l)

/-- The state a command leaves that answers OK with no result and the Stack `l`, and changes nothing else. -/
abbrev State.leaves (s : State) (l : List Word) : State := (s.withStack l).answered (.ok .none) none

/-- R300: the state a command leaves that answers an error. -/
abbrev State.fails (s : State) (e : ErrorKind) : State := s.answered (.error e) none

/-- R96: every transfer with the select `n` decodes to the command `i`, whatever its payload fields hold. -/
abbrev hasSelect (n : Nat) (i : Instr) : Prop := ∀ c : Command, c.sel.toNat = n → decode c = .ok i

/-- R98: the selects that name no command. -/
abbrev reservedSelect (n : Nat) : Prop :=
  n = 0x000 ∨ (0x00C ≤ n ∧ n ≤ 0x00F) ∨ n = 0x01E ∨ n = 0x01F ∨ (0x021 ≤ n ∧ n ≤ 0x04F) ∨ (0x054 ≤ n ∧ n ≤ 0x05E) ∨
    (0x0A0 ≤ n ∧ n ≤ 0x0FF) ∨ (0x105 ≤ n ∧ n ≤ 0x10F) ∨ (0x116 ≤ n ∧ n ≤ 0x11F) ∨ (0x122 ≤ n ∧ n ≤ 0x1FF)

/-- The invariant of the Engine, in every state a run reaches. -/
structure State.Inv (s : State) : Prop where
  /-- R22: `0 ≤ length ≤ 1024`. -/
  size_le : s.size ≤ Config.stackCap
  /-- R29: Memory keeps its canonical form, no byte stands at or past `mlen`. -/
  mem_wf : s.mem.wf
  /-- R31: Storage keeps its canonical form, every value is 32 bytes. -/
  sto_wf : Storage.wf s.sto
  /-- R27: with PUSH0_PC_STEP = 0, `pc ≤ CODE_LEN`. -/
  pc_le : s.params.push0PcStep = 0 → s.pc ≤ s.code.length
  /-- R74: Memory never exceeds MEM_LIMIT. -/
  mlen_le : s.memOk s.mem.mlen

end Machine

end Sys2Proof
end

