-- ==== Sys2Proof/Certificates/Slice0/Obligations.lean ====
section
/-! DEFINITION. The statements for the provers, from the numbered rules of spec/. `s.leaves l` is the state a command
leaves that answers OK with the Stack `l`, `s.fails e` the one that answers the error `e`; both change nothing else. -/

open Sys2Proof Sys2Proof.Machine

/-- Decoding the encoding of a well-formed command gives the command back.
Derived: 30_encoding.md sections 1 to 3 (R90 to R97; the numbers are decisions D2 to D4). -/
def Obligations.DecodeOfEncodeIsTheCommand : Prop :=
  ∀ i : Instr, i.wellFormed = true → decode (encode i) = .ok i

/-- What a transfer decodes to is well-formed, has the transfer's select, and is read again from its own encoding.
Derived: 30_encoding.md sections 1, 3 and 4 (R90, R96, R97, R100; numbers by D2 to D4). -/
def Obligations.DecodedCommandKeepsItsSelect : Prop :=
  ∀ (c : Command) (i : Instr), decode c = .ok i →
    i.wellFormed = true ∧ (encode i).sel = c.sel ∧ decode (encode i) = .ok i

/-- Each component-port command takes its payload fields as they stand in the transfer.
Derived: 30_encoding.md sections 2 and 3 (R95, R97; select values by D4), 10_state.md section 8 (R42). -/
def Obligations.PayloadFieldsAreUsedAsTheyAre : Prop :=
  ∀ c : Command,
    (c.sel = 0x100 → decode c = .ok (.stkPush c.argWord)) ∧
    (c.sel = 0x101 → decode c = .ok .stkPop) ∧
    (c.sel = 0x102 → decode c = .ok (.stkPeek c.argDepth)) ∧
    (c.sel = 0x103 → decode c = .ok (.stkSwap c.argDepth)) ∧
    (c.sel = 0x104 → decode c = .ok .stkSize) ∧
    (c.sel = 0x110 → decode c = .ok (.memStore c.argBytes c.argOff)) ∧
    (c.sel = 0x111 → decode c = .ok (.memLoad c.argOff c.argSize)) ∧
    (c.sel = 0x112 → decode c = .ok (.memLoadB c.argOff)) ∧
    (c.sel = 0x113 → decode c = .ok (.memLoadW c.argOff)) ∧
    (c.sel = 0x114 → decode c = .ok (.memStoreB c.argByte c.argOff)) ∧
    (c.sel = 0x115 → decode c = .ok (.memStoreW c.argWord c.argOff)) ∧
    (c.sel = 0x120 → c.argVal.length = 32 → decode c = .ok (.stoStore c.argKey c.argVal)) ∧
    (c.sel = 0x121 → decode c = .ok (.stoLoad c.argKey))

/-- A select without a row is refused and every other select names a command.
Derived: 30_encoding.md section 4 (R98, R100; refusal by D6). -/
def Obligations.ReservedSelectsAreRefused : Prop :=
  ∀ (s : State) (c : Command) (l : List Command), s.cmdPort = c :: l →
    (reservedSelect c.sel.toNat →
      decode c = .error (.invalidSelect c.sel) ∧ step s = .refused (.invalidSelect c.sel)) ∧
    (¬ reservedSelect c.sel.toNat → c.argVal.length = 32 → ∃ i, decode c = .ok i)

/-- The select number of every command, written out from the opcode map.
Derived: 30_encoding.md sections 2 and 3 (R94, R96, R97; values by D3, D4, log 17). -/
def Obligations.WordsOfTheOpcodeMapDecode : Prop :=
  (∀ p ∈ [(0x001, Instr.add), (0x002, .mul), (0x003, .sub), (0x004, .div), (0x005, .sdiv), (0x006, .mod),
      (0x007, .smod), (0x008, .addmod), (0x009, .mulmod), (0x00A, .exp), (0x00B, .signextend), (0x010, .lt),
      (0x011, .gt), (0x012, .slt), (0x013, .sgt), (0x014, .eq), (0x015, .iszero), (0x016, .and), (0x017, .or),
      (0x018, .xor), (0x019, .not), (0x01A, .byte), (0x01B, .shl), (0x01C, .shr), (0x01D, .sar), (0x020, .keccak256),
      (0x050, .pop), (0x051, .mload), (0x052, .mstore), (0x053, .mstore8), (0x05F, .push0), (0x100, .stkPush 0),
      (0x101, .stkPop), (0x102, .stkPeek 0), (0x103, .stkSwap 0), (0x104, .stkSize), (0x110, .memStore [] 0),
      (0x111, .memLoad 0 0), (0x112, .memLoadB 0), (0x113, .memLoadW 0), (0x114, .memStoreB 0 0),
      (0x115, .memStoreW 0 0), (0x120, .stoStore 0 (List.replicate 32 0)), (0x121, .stoLoad 0)],
    decodeTableWord 16 p.1 = some p.2) ∧
  (∀ p ∈ pushFamily, decodeTableWord 16 (0x05F + p.1) = some p.2) ∧
  (∀ p ∈ dupFamily, decodeTableWord 16 (0x07F + p.1) = some p.2) ∧
  (∀ p ∈ swapFamily, decodeTableWord 16 (0x08F + p.1) = some p.2) ∧ decodeTableWord 16 0x151 = none

/-- A step takes the next command off the command port and performs it.
Derived: 10_state.md section 8 (R42, R46), 00_scope.md section 6 (R19). -/
def Obligations.StepPerformsTheDecodedCommand : Prop :=
  ∀ (s : State) (c : Command) (l : List Command) (i : Instr),
    s.cmdPort = c :: l → decode c = .ok i → step s = exec i (s.withCmds l)

/-- With no command presented the Engine holds its state.
Derived: 60_exceptions.md section 6 (R325), 00_scope.md section 6 (R19). -/
def Obligations.StepWithNoCommandHoldsTheState : Prop :=
  ∀ s : State, s.cmdPort = [] → step s = .next s

/-- After construction the state has the reset values of the spec.
Derived: 10_state.md sections 8 and 9 (R41, R50), 70_reset_and_hazards.md section 1 (R340), 00_scope.md section 4 (R10). -/
def Obligations.ConstructionGivesTheResetValues : Prop :=
  (∀ (params : Config) (code : Bytes) (base : Option Nat) (pairs : List (Int × Vector Byte 32)),
    let s := State.construct params code base pairs
    s.stack = [] ∧ s.mem.mlen = 0 ∧ (∀ a n, s.mem.read a n = List.replicate n 0) ∧ s.pc = 0 ∧ s.code = code ∧
    s.params = params ∧ s.cmdPort = [] ∧ s.rspPort = none ∧ s.hashPort = none ∧
    (∀ k, (∀ c ∈ pairs, c.1 ≠ k) → (base = none → s.sto.read k = List.replicate 32 0) ∧
      (∀ n, base = some n → s.sto.read k = (Config.stoInit n k).toList)) ∧
    ((pairs.map Prod.fst).Nodup → ∀ c ∈ pairs, s.sto.read c.1 = c.2.toList)) ∧
  State.reset = State.construct {
      binopOrder := .xTop, push0PcStep := 0, offsetLimit := none, memLimit := none, keyMin := none, keyMax := none }
    [] none []

/-- The state after construction meets the invariant, and so does State.reset.
Derived: 10_state.md sections 3, 5, 6 and 9 (R22, R27, R29, R31, R50). -/
def Obligations.ConstructionMeetsTheInvariant : Prop :=
  (∀ (params : Config) (code : Bytes) (base : Option Nat) (pairs : List (Int × Vector Byte 32)),
    (State.construct params code base pairs).Inv) ∧ State.reset.Inv

/-- Every step keeps the invariant of the Engine.
Derived: 10_state.md sections 3 to 6 (R22, R27, R29, R31), 20_memory.md section 6 (R74), 40_stack_component.md (R125). -/
def Obligations.StepKeepsTheInvariant : Prop :=
  ∀ s t : State, s.Inv → step s = .next t → t.Inv

/-- StackUnderflow is answered exactly when the Stack holds fewer Words than the command takes.
Stated: R303. -/
def Obligations.StackUnderflowExactlyBelowTheOperandCount : Prop :=
  ∀ (i : Instr) (s : State), errorOf (exec i s) = some .stackUnderflow ↔ s.size < i.operandCount

/-- StackOverflow is answered at capacity 1024 by the pushing commands and by no other.
Stated: R302. -/
def Obligations.StackOverflowExactlyForPushesAtCapacity : Prop :=
  ∀ (i : Instr) (s : State),
    (errorOf (exec i s) = some .stackOverflow → i.pushesFirst = true ∧ s.size = 1024) ∧
    (i.pushesFirst = true → s.size = 1024 → (∀ n, i.immediateSize = some n → s.pc + n + 1 ≤ s.code.length) →
      exec i s = .next (s.fails .stackOverflow))

/-- EmptyStack and IndexOutOfRange are answered exactly where a depth names no Word.
Stated: R304, R305. -/
def Obligations.DepthErrorsExactly : Prop :=
  ∀ (i : Instr) (s : State),
    (errorOf (exec i s) = some .emptyStack ↔ (∃ d, i.depth = some d) ∧ s.size = 0) ∧
    (errorOf (exec i s) = some .indexOutOfRange ↔ ∃ d, i.depth = some d ∧ 1 ≤ s.size ∧ (s.size : Int) < d)

/-- PushSizeExceedsCodeSize is answered exactly by PUSHN with pc + N + 1 above CODE_LEN.
Stated: R307. -/
def Obligations.PushSizeExceedsCodeSizeExactly : Prop :=
  ∀ (i : Instr) (s : State),
    errorOf (exec i s) = some .pushSizeExceedsCodeSize ↔
      ∃ n, i.immediateSize = some n ∧ s.code.length < s.pc + n + 1

/-- No command raises InvalidPushSize, InvalidDupSize or InvalidSwapSize.
Stated: R306. -/
def Obligations.GuardRailKindsAreNeverRaised : Prop :=
  ∀ (i : Instr) (s : State), errorOf (exec i s) ≠ some .invalidPushSize ∧
    errorOf (exec i s) ≠ some .invalidDupSize ∧ errorOf (exec i s) ≠ some .invalidSwapSize

/-- A command that answers an error changes no state variable.
Derived: 60_exceptions.md section 1 (R300; that pc is kept is decision D9) and section 5 (R312). -/
def Obligations.AnErrorChangesNothing : Prop :=
  ∀ (i : Instr) (s t : State) (e : ErrorKind),
    exec i s = .next t → t.rspPort = some (.error e) → t = s.fails e

/-- A command is refused exactly for a depth, a key, an offset or a Memory end the spec gives no meaning.
Derived: 00_scope.md sections 4 and 6 (R10, R18), 10_state.md section 8 (R42), 20_memory.md section 6 (R73, R74), 40_stack_component.md (R122, R123). -/
def Obligations.RefusalsExactlyWhereThereIsNoMeaning : Prop :=
  ∀ (i : Instr) (s : State) (r : Refusal), exec i s = .refused r ↔
    (∃ d, i = .stkPeek d ∧ s.size ≠ 0 ∧ d < 1 ∧ r = .peekDepth d) ∨
    (∃ d, i = .stkSwap d ∧ s.size ≠ 0 ∧ d < 2 ∧ r = .swapDepth d) ∨
    (∃ k, (i = .stoLoad k ∨ ∃ v, i = .stoStore k v) ∧ ¬ s.keyOk k ∧ r = .keyRange k) ∨
    (∃ l w l', offsetWords s i = l ++ w :: l' ∧ (∀ u ∈ l, s.offsetOk u) ∧ ¬ s.offsetOk w ∧ r = .offsetLimit (U w)) ∨
    ((∀ w ∈ offsetWords s i, s.offsetOk w) ∧ ∃ n, storeEnd s i = some n ∧ ¬ s.memOk n ∧ r = .memLimit n)

/-- With no OFFSET_LIMIT, no MEM_LIMIT and KeyT the integers every command answers in one step.
Derived: 70_reset_and_hazards.md section 3 (R347), 00_scope.md sections 4 and 6 (R10, R18). -/
def Obligations.WithoutLimitsEveryCommandAnswers : Prop :=
  ∀ (i : Instr) (s : State), s.params.offsetLimit = none → s.params.memLimit = none → s.params.keyMin = none →
    s.params.keyMax = none → (∀ d, i = .stkPeek d → s.size = 0 ∨ 1 ≤ d) → (∀ d, i = .stkSwap d → s.size = 0 ∨ 2 ≤ d) →
    ∃ t, exec i s = .next t

/-- pc is moved by PUSH1 to PUSH32, and by PUSH0 only by PUSH0_PC_STEP.
Derived: 10_state.md section 4 (R25, R26), 60_exceptions.md section 7 (R327). -/
def Obligations.OnlyPushesMovePc : Prop :=
  ∀ (i : Instr) (s t : State), exec i s = .next t →
    t.pc = s.pc ∨
    (∃ n, i.immediateSize = some n ∧ t.pc = s.pc + n + 1 ∧ t.rspPort = some (.ok .none)) ∨
    (i = .push0 ∧ t.pc = s.pc + s.params.push0PcStep.val ∧ t.rspPort = some (.ok .none))

/-- Only the five storing commands change Memory, its length never decreases, and only STO.STORE changes Storage.
Derived: 10_state.md sections 5 and 6 (R29, R31), 20_memory.md section 2 (R64), 00_scope.md section 3 (R6). -/
def Obligations.OnlyStoresChangeMemoryAndStorage : Prop :=
  ∀ (i : Instr) (s t : State), exec i s = .next t →
    s.mem.mlen ≤ t.mem.mlen ∧
    (t.mem ≠ s.mem → i.storesMemory = true ∧ t.rspPort = some (.ok .none)) ∧
    (t.sto ≠ s.sto → ∃ k v, i = .stoStore k v)

/-- No step changes code; nor, by the model's choice (log 1, log 3), the parameters or any waiting command but the first.
Derived: 20_memory.md section 7 (R79), 10_state.md sections 4 and 8 (R28, R46). -/
def Obligations.CodeIsImmutable : Prop :=
  ∀ s t : State, step s = .next t →
    t.code = s.code ∧ t.params = s.params ∧ t.cmdPort = s.cmdPort.tail

/-- Only KECCAK256 makes a request on the hash port, and its reply is the Word pushed.
Derived: 10_state.md section 8 (R44; ports by D1), 45_hashing.md (R190, R191). -/
def Obligations.HashPortIsUsedByKeccakOnly : Prop :=
  ∀ (i : Instr) (s t : State) (data : Bytes), exec i s = .next t → t.hashPort = some data →
    i = .keccak256 ∧ ∃ p n l r, s.stack = p :: n :: l ∧ data = s.mem.read (U p) (U n) ∧ t.stack = r :: l ∧
      ∀ k (hk : k < 32), r.extractLsb' (248 - 8 * k) 8 = (Config.keccak256 data)[k]

/-- The six observed variables are the whole state: they determine every response and the next observation.
Derived: 10_state.md sections 1, 7 and 8 (R20, R35, R45). -/
def Obligations.ObservationDeterminesTheBehaviour : Prop :=
  ∀ (i : Instr) (s s' : State), s.Inv → s'.Inv → s.observe = s'.observe → s.code = s'.code → s.params = s'.params →
    (∀ t, exec i s = .next t → ∃ t', exec i s' = .next t' ∧ t'.rspPort = t.rspPort ∧ t'.hashPort = t.hashPort ∧
      t'.observe = t.observe) ∧
    (∀ r, exec i s = .refused r → exec i s' = .refused r)

/-- BINOP_ORDER changes the outcome of SUB, DIV, SDIV, MOD, SMOD, EXP, LT, GT, SLT and SGT only.
Derived: 43_arithmetic.md section 1 (R164; the parameter is decision D7). -/
def Obligations.OperandOrderMattersOnlyForTenCommands : Prop :=
  ∀ (i : Instr) (s : State) (o : BinopOrder), i.orderSensitive = false →
    exec i { s with params := { s.params with binopOrder := o } } = withOrder o (exec i s)

/-- ADD and MUL replace the two top Words by their sum and their product modulo 2^256.
Derived: 43_arithmetic.md section 2 (R151, R152; that the product equals W(S(x) * S(y)) is R152's own inference, marked [derived: from 00_scope.md rule R13]), 00_scope.md section 5 (R13). -/
def Obligations.AddAndMulWrap : Prop :=
  hasSelect 0x001 .add ∧ hasSelect 0x002 .mul ∧
  ∀ s : State, (s.size < 2 → exec .add s = .next (s.fails .stackUnderflow) ∧
      exec .mul s = .next (s.fails .stackUnderflow)) ∧
    ∀ x y l, s.operandsXY x y l → ∃ r p, exec .add s = .next (s.leaves (r :: l)) ∧ U r = (U x + U y) % 2 ^ 256 ∧
      exec .mul s = .next (s.leaves (p :: l)) ∧ U p = (U x * U y) % 2 ^ 256 ∧ p = W (S x * S y)

/-- SUB replaces x and y by x - y modulo 2^256.
Derived: 43_arithmetic.md sections 1 and 2 (R153, R164; operand order by D7). -/
def Obligations.SubWraps : Prop :=
  ∀ s : State, (s.size < 2 → exec .sub s = .next (s.fails .stackUnderflow)) ∧
    ∀ x y l, s.operandsXY x y l → ∃ r, exec .sub s = .next (s.leaves (r :: l)) ∧
      (U r : Int) = ((U x : Int) - U y) % 2 ^ 256

/-- DIV and MOD give the floor quotient and its remainder, and 0 for a zero divisor.
Derived: 43_arithmetic.md sections 1 and 2 (R154, R156, R164; operand order by D7). -/
def Obligations.DivAndModAreFloorDivision : Prop :=
  ∀ s : State, (s.size < 2 → exec .div s = .next (s.fails .stackUnderflow) ∧
      exec .mod s = .next (s.fails .stackUnderflow)) ∧
    ∀ x y l, s.operandsXY x y l → ∃ q r, exec .div s = .next (s.leaves (q :: l)) ∧
      exec .mod s = .next (s.leaves (r :: l)) ∧ (U y = 0 → U q = 0 ∧ U r = 0) ∧
      (U y ≠ 0 → U x = U y * U q + U r ∧ U r < U y)

/-- SDIV gives the signed quotient rounded toward zero, 0 for a zero divisor, and -2^255 for -2^255 by -1.
Derived: 43_arithmetic.md sections 1 and 2 (R155, R164; operand order by D7). -/
def Obligations.SdivTruncatesTowardZero : Prop :=
  ∀ s : State, (s.size < 2 → exec .sdiv s = .next (s.fails .stackUnderflow)) ∧
    ∀ x y l, s.operandsXY x y l → ∃ r, exec .sdiv s = .next (s.leaves (r :: l)) ∧
      (U y = 0 → U r = 0) ∧ (S x = -2 ^ 255 → S y = -1 → S r = -2 ^ 255) ∧
      (U y ≠ 0 → ¬ (S x = -2 ^ 255 ∧ S y = -1) → S r = (S x).tdiv (S y))

/-- SMOD gives the remainder of the magnitudes with the sign of the dividend.
Derived: 43_arithmetic.md sections 1 and 2 (R157, R164; operand order by D7; rounding words N21). -/
def Obligations.SmodFollowsTheDividend : Prop :=
  ∀ s : State, (s.size < 2 → exec .smod s = .next (s.fails .stackUnderflow)) ∧
    ∀ x y l, s.operandsXY x y l → ∃ r, exec .smod s = .next (s.leaves (r :: l)) ∧
      (U y = 0 → U r = 0) ∧
      (U y ≠ 0 → (S r).natAbs = (S x).natAbs % (S y).natAbs ∧ (0 ≤ S x → 0 ≤ S r) ∧ (S x < 0 → S r ≤ 0))

/-- ADDMOD and MULMOD take the remainder of the exact sum and product of the two top Words by the third.
Stated: R158, R159. -/
def Obligations.AddmodAndMulmodAreExact : Prop :=
  hasSelect 0x008 .addmod ∧ hasSelect 0x009 .mulmod ∧
  ∀ s : State, (s.size < 3 → exec .addmod s = .next (s.fails .stackUnderflow) ∧
      exec .mulmod s = .next (s.fails .stackUnderflow)) ∧
    ∀ x y m l, s.stack = x :: y :: m :: l → ∃ a p, exec .addmod s = .next (s.leaves (a :: l)) ∧
      exec .mulmod s = .next (s.leaves (p :: l)) ∧ (U m = 0 → U a = 0 ∧ U p = 0) ∧
      (U m ≠ 0 → U a = (U x + U y) % U m ∧ U p = (U x * U y) % U m)

/-- EXP gives x to the power y modulo 2^256.
Derived: 43_arithmetic.md sections 1 and 2 (R160, R164; operand order by D7). -/
def Obligations.ExpIsPowerModulo : Prop :=
  ∀ s : State, (s.size < 2 → exec .exp s = .next (s.fails .stackUnderflow)) ∧
    ∀ x y l, s.operandsXY x y l → ∃ r, exec .exp s = .next (s.leaves (r :: l)) ∧ U r = (U x ^ U y) % 2 ^ 256

/-- SIGNEXTEND keeps the low bits of the top Word and repeats the sign bit the second names.
Stated: R161. -/
def Obligations.SignextendRepeatsTheSignBit : Prop :=
  hasSelect 0x00B .signextend ∧
  ∀ s : State, (s.size < 2 → exec .signextend s = .next (s.fails .stackUnderflow)) ∧
    ∀ x b l, s.stack = x :: b :: l → ∃ r, exec .signextend s = .next (s.leaves (r :: l)) ∧
      (31 ≤ U b → r = x) ∧
      (U b < 31 → ∀ k < 256, r.getLsbD k = x.getLsbD (if k ≤ 8 * U b + 7 then k else 8 * U b + 7))

/-- LT, GT, SLT and SGT replace x and y by 1 or 0 as the comparison holds.
Derived: 44_comparison_bitwise.md section 1 (R170 to R174; what the names compare by D24), 43_arithmetic.md section 1 (R164). -/
def Obligations.ComparisonsPushABoolean : Prop :=
  ∀ s : State, (s.size < 2 → ∀ i ∈ [Instr.lt, .gt, .slt, .sgt], exec i s = .next (s.fails .stackUnderflow)) ∧
    ∀ x y l, s.operandsXY x y l →
      exec .lt s = .next (s.leaves ((if x.toNat < y.toNat then 1 else 0) :: l)) ∧
      exec .gt s = .next (s.leaves ((if y.toNat < x.toNat then 1 else 0) :: l)) ∧
      exec .slt s = .next (s.leaves ((if x.toInt < y.toInt then 1 else 0) :: l)) ∧
      exec .sgt s = .next (s.leaves ((if y.toInt < x.toInt then 1 else 0) :: l))

/-- EQ answers whether the two top Words are equal in all bits, ISZERO whether the top is zero.
Stated: R175, R176. -/
def Obligations.EqAndIszeroTestAllBits : Prop :=
  hasSelect 0x014 .eq ∧ hasSelect 0x015 .iszero ∧
  ∀ s : State, (s.size < 2 → exec .eq s = .next (s.fails .stackUnderflow)) ∧
    (s.size < 1 → exec .iszero s = .next (s.fails .stackUnderflow)) ∧
    (∀ x y l, s.operandsXY x y l →
      ((∀ k < 256, x.getLsbD k = y.getLsbD k) → exec .eq s = .next (s.leaves (1 :: l))) ∧
      ((∃ k < 256, x.getLsbD k ≠ y.getLsbD k) → exec .eq s = .next (s.leaves (0 :: l)))) ∧
    (∀ x l, s.stack = x :: l → exec .iszero s = .next (s.leaves ((if U x = 0 then 1 else 0) :: l)))

/-- AND, OR and XOR act on each of the 256 bits of the two top Words.
Stated: R177, R178, R179. -/
def Obligations.AndOrXorAreBitwise : Prop :=
  hasSelect 0x016 .and ∧ hasSelect 0x017 .or ∧ hasSelect 0x018 .xor ∧
  ∀ s : State, (s.size < 2 → ∀ i ∈ [Instr.and, .or, .xor], exec i s = .next (s.fails .stackUnderflow)) ∧
    ∀ x y l, s.operandsXY x y l → ∃ a o e, exec .and s = .next (s.leaves (a :: l)) ∧
      exec .or s = .next (s.leaves (o :: l)) ∧ exec .xor s = .next (s.leaves (e :: l)) ∧
      ∀ k < 256, a.getLsbD k = (x.getLsbD k && y.getLsbD k) ∧ o.getLsbD k = (x.getLsbD k || y.getLsbD k) ∧
        e.getLsbD k = (x.getLsbD k ^^ y.getLsbD k)

/-- NOT complements every bit of the top Word.
Derived: 44_comparison_bitwise.md section 2 (R180; one operand by C7). -/
def Obligations.NotComplementsEveryBit : Prop :=
  ∀ s : State, (s.size < 1 → exec .not s = .next (s.fails .stackUnderflow)) ∧
    ∀ x l, s.stack = x :: l → ∃ r, exec .not s = .next (s.leaves (r :: l)) ∧
      (∀ k < 256, r.getLsbD k = !x.getLsbD k) ∧ r = W (-S x - 1)

/-- BYTE gives byte i of x counted from the most significant, 0 for i of 32 or more.
Stated: R181. -/
def Obligations.ByteSelectsFromTheTop : Prop :=
  hasSelect 0x01A .byte ∧
  ∀ s : State, (s.size < 2 → exec .byte s = .next (s.fails .stackUnderflow)) ∧
    ∀ i x l, s.stack = i :: x :: l → ∃ r, exec .byte s = .next (s.leaves (r :: l)) ∧
      (32 ≤ U i → U r = 0) ∧ (U i < 32 → U r = U x / 256 ^ (31 - U i) % 256)

/-- SHL and SHR move the bits of the second Word by the top Word, filling with zero.
Stated: R182, R183. -/
def Obligations.LogicalShiftsFillWithZero : Prop :=
  hasSelect 0x01B .shl ∧ hasSelect 0x01C .shr ∧
  ∀ s : State, (s.size < 2 → exec .shl s = .next (s.fails .stackUnderflow) ∧
      exec .shr s = .next (s.fails .stackUnderflow)) ∧
    ∀ shift value l, s.stack = shift :: value :: l → ∃ a b, exec .shl s = .next (s.leaves (a :: l)) ∧
      exec .shr s = .next (s.leaves (b :: l)) ∧
      ∀ k < 256, a.getLsbD k = (decide (U shift ≤ k) && value.getLsbD (k - U shift)) ∧
        b.getLsbD k = value.getLsbD (k + U shift)

/-- SAR moves the bits of the second Word down by the top Word, filling with its sign bit.
Derived: 44_comparison_bitwise.md section 2 (R184; operand order by D17). -/
def Obligations.SarFillsWithTheSign : Prop :=
  ∀ s : State, (s.size < 2 → exec .sar s = .next (s.fails .stackUnderflow)) ∧
    ∀ shift value l, s.stack = shift :: value :: l → ∃ r, exec .sar s = .next (s.leaves (r :: l)) ∧
      ∀ k < 256, r.getLsbD k = value.getLsbD (if k + U shift < 256 then k + U shift else 255)

/-- KECCAK256 replaces offset and size by the digest of that Memory range, grows nothing, and is refused above OFFSET_LIMIT.
Derived: 45_hashing.md (R190, R191; byte order by D13), 20_memory.md section 6 (R73; exact offset and refusal by D11). -/
def Obligations.KeccakHashesItsRange : Prop :=
  ∀ s : State, (s.size < 2 → exec .keccak256 s = .next (s.fails .stackUnderflow)) ∧
    ∀ p n l, s.stack = p :: n :: l →
      (s.offsetOk p → s.offsetOk n → ∃ r data,
        exec .keccak256 s = .next ((s.withStack (r :: l)).answered (.ok .none) (some data)) ∧
        data.length = U n ∧ (∀ k < U n, data[k]? = some (s.mem.readByte (U p + k))) ∧
        ∀ k (hk : k < 32), r.extractLsb' (248 - 8 * k) 8 = (Config.keccak256 data)[k]) ∧
      (¬ s.offsetOk p → exec .keccak256 s = .refused (.offsetLimit (U p))) ∧
      (s.offsetOk p → ¬ s.offsetOk n → exec .keccak256 s = .refused (.offsetLimit (U n)))

/-- MLOAD replaces the offset by the 32 bytes there, most significant first, and never grows Memory.
Derived: 46_memory_ops.md (R195), 20_memory.md sections 2, 3 and 6 (R62, R67, R73; exact offset by D11). -/
def Obligations.MloadReadsBigEndian : Prop :=
  ∀ s : State, (s.size < 1 → exec .mload s = .next (s.fails .stackUnderflow)) ∧
    ∀ p l, s.stack = p :: l →
      (s.offsetOk p → ∃ r, exec .mload s = .next (s.leaves (r :: l)) ∧
        ∀ k < 32, r.extractLsb' (248 - 8 * k) 8 = s.mem.readByte (U p + k) ∧
          (s.mem.mlen ≤ U p + k → r.extractLsb' (248 - 8 * k) 8 = 0)) ∧
      (¬ s.offsetOk p → exec .mload s = .refused (.offsetLimit (U p)))

/-- MSTORE writes the 32 bytes of the value at the offset, most significant first, and no other byte.
Derived: 46_memory_ops.md (R196), 20_memory.md sections 2, 3 and 6 (R63, R67, R73, R74; D11, D12). -/
def Obligations.MstoreWritesBigEndian : Prop :=
  ∀ s : State, (s.size < 2 → exec .mstore s = .next (s.fails .stackUnderflow)) ∧
    ∀ p v l, s.stack = p :: v :: l →
      (s.offsetOk p → s.memOk (U p + 32) → ∃ m, exec .mstore s = .next ((s.withMem m).leaves l) ∧
        m.mlen = max s.mem.mlen (U p + 32) ∧
        (∀ k < 32, m.readByte (U p + k) = v.extractLsb' (248 - 8 * k) 8) ∧
        (∀ a, a < U p ∨ U p + 32 ≤ a → m.readByte a = s.mem.readByte a)) ∧
      (¬ s.offsetOk p → exec .mstore s = .refused (.offsetLimit (U p))) ∧
      (s.offsetOk p → ¬ s.memOk (U p + 32) → exec .mstore s = .refused (.memLimit (U p + 32)))

/-- MSTORE8 writes the least significant byte of the value at the offset and no other byte.
Derived: 46_memory_ops.md (R197), 20_memory.md sections 2 and 6 (R63, R73, R74; D11, D12). -/
def Obligations.Mstore8WritesOneByte : Prop :=
  ∀ s : State, (s.size < 2 → exec .mstore8 s = .next (s.fails .stackUnderflow)) ∧
    ∀ p v l, s.stack = p :: v :: l →
      (s.offsetOk p → s.memOk (U p + 1) → ∃ m, exec .mstore8 s = .next ((s.withMem m).leaves l) ∧
        m.mlen = max s.mem.mlen (U p + 1) ∧ (m.readByte (U p)).toNat = U v % 256 ∧
        (∀ a, a ≠ U p → m.readByte a = s.mem.readByte a)) ∧
      (¬ s.offsetOk p → exec .mstore8 s = .refused (.offsetLimit (U p))) ∧
      (s.offsetOk p → ¬ s.memOk (U p + 1) → exec .mstore8 s = .refused (.memLimit (U p + 1)))

/-- POP discards the top Word and returns nothing.
Stated: R200. -/
def Obligations.PopDiscardsTheTop : Prop :=
  hasSelect 0x050 .pop ∧
  ∀ s : State, (s.size = 0 → exec .pop s = .next (s.fails .stackUnderflow)) ∧
    ∀ v l, s.stack = v :: l → exec .pop s = .next (s.leaves l)

/-- PUSH0 pushes the zero Word and moves pc by PUSH0_PC_STEP.
Derived: 47_stack_ops.md (R201; pc step by D8), 10_state.md section 4 (R26). -/
def Obligations.Push0PushesZero : Prop :=
  ∀ s : State, (s.size ≠ 1024 → exec .push0 s =
      .next ((s.leaves (0 :: s.stack)).withPc (s.pc + s.params.push0PcStep.val))) ∧
    (s.size = 1024 → exec .push0 s = .next (s.fails .stackOverflow))

/-- PUSHN, N in 1..32, pushes the N bytes of code after pc, big-endian and zero-extended, and moves pc by N + 1.
Derived: 47_stack_ops.md (R202, R203 to R234; pc on error and priority by D9), 30_encoding.md section 2 (R94). -/
def Obligations.PushNPushesItsImmediate : Prop :=
  ∀ p ∈ pushFamily, ∀ s : State,
    (s.pc + p.1 + 1 ≤ s.code.length → s.size ≠ 1024 → ∃ v,
      exec p.2 s = .next ((s.leaves (v :: s.stack)).withPc (s.pc + p.1 + 1)) ∧ U v < 2 ^ (8 * p.1) ∧
      ∀ k < p.1, s.code[s.pc + 1 + k]? = some (v.extractLsb' (8 * (p.1 - 1 - k)) 8)) ∧
    (s.code.length < s.pc + p.1 + 1 → exec p.2 s = .next (s.fails .pushSizeExceedsCodeSize)) ∧
    (s.pc + p.1 + 1 ≤ s.code.length → s.size = 1024 → exec p.2 s = .next (s.fails .stackOverflow))

/-- DUPN, N in 1..16, pushes a copy of the Word at depth N.
Stated: R240. -/
def Obligations.DupNPushesACopy : Prop :=
  (∀ p ∈ dupFamily, hasSelect (0x07F + p.1) p.2) ∧
  ∀ p ∈ dupFamily, ∀ s : State,
    (p.1 ≤ s.size → s.size ≠ 1024 → ∃ v, s.stack[p.1 - 1]? = some v ∧
      exec p.2 s = .next (s.leaves (v :: s.stack))) ∧
    (s.size = 0 → exec p.2 s = .next (s.fails .emptyStack)) ∧
    (s.size ≠ 0 → s.size < p.1 → exec p.2 s = .next (s.fails .indexOutOfRange)) ∧
    (s.size = 1024 → exec p.2 s = .next (s.fails .stackOverflow))

/-- SWAPN, N in 1..16, exchanges the top with the Word at depth N + 1 and nothing else.
Stated: R260. -/
def Obligations.SwapNExchangesTwoWords : Prop :=
  (∀ p ∈ swapFamily, hasSelect (0x08F + p.1) p.2) ∧
  ∀ p ∈ swapFamily, ∀ s : State,
    (p.1 + 1 ≤ s.size → ∃ l, exec p.2 s = .next (s.leaves l) ∧ l.length = s.size ∧ l[0]? = s.stack[p.1]? ∧
      l[p.1]? = s.stack[0]? ∧ ∀ k, k ≠ 0 → k ≠ p.1 → l[k]? = s.stack[k]?) ∧
    (s.size = 0 → exec p.2 s = .next (s.fails .emptyStack)) ∧
    (s.size ≠ 0 → s.size < p.1 + 1 → exec p.2 s = .next (s.fails .indexOutOfRange))

/-- STK.PUSH adds its Word on top, STK.POP returns and removes the top, STK.SIZE returns the size.
Stated: R120, R121, R124. -/
def Obligations.StkPushPopAndSize : Prop :=
  (∀ c : Command, (c.sel = 0x100 → decode c = .ok (.stkPush c.argWord)) ∧ (c.sel = 0x101 → decode c = .ok .stkPop) ∧
    (c.sel = 0x104 → decode c = .ok .stkSize)) ∧
  ∀ s : State,
    (∀ v, (s.size ≠ 1024 → exec (.stkPush v) s = .next (s.leaves (v :: s.stack))) ∧
      (s.size = 1024 → exec (.stkPush v) s = .next (s.fails .stackOverflow))) ∧
    (s.size = 0 → exec .stkPop s = .next (s.fails .stackUnderflow)) ∧
    (∀ v l, s.stack = v :: l → exec .stkPop s = .next ((s.withStack l).answered (.ok (.word v)) none)) ∧
    exec .stkSize s = .next (s.answered (.ok (.size s.stack.length)) none)

/-- STK.PEEK returns the Word at its depth and changes nothing.
Derived: 40_stack_component.md (R122; depth below 1 by D16). -/
def Obligations.StkPeekReturnsTheWordAtADepth : Prop :=
  ∀ (s : State) (d : Int),
    (1 ≤ d → d ≤ s.size → ∃ v, s.stack[d.toNat - 1]? = some v ∧
      exec (.stkPeek d) s = .next (s.answered (.ok (.word v)) none)) ∧
    (s.size = 0 → exec (.stkPeek d) s = .next (s.fails .emptyStack)) ∧
    (s.size ≠ 0 → (s.size : Int) < d → exec (.stkPeek d) s = .next (s.fails .indexOutOfRange)) ∧
    (s.size ≠ 0 → d < 1 → exec (.stkPeek d) s = .refused (.peekDepth d))

/-- STK.SWAP exchanges the top with the Word at its depth.
Derived: 40_stack_component.md (R123; depth below 2 by D16). -/
def Obligations.StkSwapExchangesTwoWords : Prop :=
  ∀ (s : State) (d : Int),
    (2 ≤ d → d ≤ s.size → ∃ l, exec (.stkSwap d) s = .next (s.leaves l) ∧ l.length = s.size ∧
      l[0]? = s.stack[d.toNat - 1]? ∧ l[d.toNat - 1]? = s.stack[0]? ∧
      ∀ k, k ≠ 0 → k ≠ d.toNat - 1 → l[k]? = s.stack[k]?) ∧
    (s.size = 0 → exec (.stkSwap d) s = .next (s.fails .emptyStack)) ∧
    (s.size ≠ 0 → (s.size : Int) < d → exec (.stkSwap d) s = .next (s.fails .indexOutOfRange)) ∧
    (s.size ≠ 0 → d < 2 → exec (.stkSwap d) s = .refused (.swapDepth d))

/-- Push then Pop returns the Word and restores the Stack; Swap twice restores it.
Derived: 40_stack_component.md (R125 c, R125 e). -/
def Obligations.StackLaws : Prop :=
  (∀ (s t u : State) (v : Word), exec (.stkPush v) s = .next t → t.rspPort = some (.ok .none) →
    exec .stkPop t = .next u → u.rspPort = some (.ok (.word v)) ∧ u.stack = s.stack) ∧
  (∀ (s t u : State) (d : Int), exec (.stkSwap d) s = .next t → exec (.stkSwap d) t = .next u →
    u.stack = s.stack)

/-- MEM.STORE writes its bytes at its offset, growing Memory to the exact end, and no other byte.
Derived: 41_memory_component.md (R130; empty payload by D15, MEM_LIMIT by D12), 20_memory.md section 2 (R63, R65). -/
def Obligations.MemStoreWritesItsBytes : Prop :=
  ∀ (s : State) (v : Bytes) (p : Nat),
    (s.memOk (p + v.length) → ∃ m, exec (.memStore v p) s = .next ((s.withMem m).answered (.ok .none) none) ∧
      m.mlen = max s.mem.mlen (p + v.length) ∧ (∀ k < v.length, some (m.readByte (p + k)) = v[k]?) ∧
      (∀ a, a < p ∨ p + v.length ≤ a → m.readByte a = s.mem.readByte a)) ∧
    (¬ s.memOk (p + v.length) → exec (.memStore v p) s = .refused (.memLimit (p + v.length)))

/-- MEM.STOREB writes one byte and MEM.STOREW the 32 bytes of its Word, most significant first.
Derived: 41_memory_component.md (R134, R135; MEM_LIMIT by D12), 20_memory.md section 3 (R67). -/
def Obligations.MemStoreByteAndWordWriteTheirBytes : Prop :=
  ∀ (s : State) (p : Nat),
    (∀ b, (s.memOk (p + 1) → ∃ m, exec (.memStoreB b p) s = .next ((s.withMem m).answered (.ok .none) none) ∧
      m.mlen = max s.mem.mlen (p + 1) ∧ m.readByte p = b ∧ (∀ a, a ≠ p → m.readByte a = s.mem.readByte a)) ∧
      (¬ s.memOk (p + 1) → exec (.memStoreB b p) s = .refused (.memLimit (p + 1)))) ∧
    (∀ w, (s.memOk (p + 32) → ∃ m, exec (.memStoreW w p) s = .next ((s.withMem m).answered (.ok .none) none) ∧
      m.mlen = max s.mem.mlen (p + 32) ∧ (∀ k < 32, m.readByte (p + k) = w.extractLsb' (248 - 8 * k) 8) ∧
      (∀ a, a < p ∨ p + 32 ≤ a → m.readByte a = s.mem.readByte a)) ∧
      (¬ s.memOk (p + 32) → exec (.memStoreW w p) s = .refused (.memLimit (p + 32))))

/-- MEM.LOAD returns exactly size bytes from its offset and MEM.LOADB one, zero past the length, changing nothing.
Stated: R131, R132. -/
def Obligations.MemLoadsReturnBytesWithoutGrowth : Prop :=
  (∀ c : Command, (c.sel = 0x111 → decode c = .ok (.memLoad c.argOff c.argSize)) ∧
    (c.sel = 0x112 → decode c = .ok (.memLoadB c.argOff))) ∧
  ∀ (s : State) (p : Nat),
    (∀ n, ∃ r, exec (.memLoad p n) s = .next (s.answered (.ok (.bytes r)) none) ∧ r.length = n ∧
      ∀ k < n, r[k]? = some (s.mem.readByte (p + k)) ∧ (s.mem.mlen ≤ p + k → r[k]? = some 0)) ∧
    (∃ b, exec (.memLoadB p) s = .next (s.answered (.ok (.byte b)) none) ∧ b = s.mem.readByte p ∧
      (s.mem.mlen ≤ p → b = 0))

/-- MEM.LOADW returns the 32 bytes at its offset as a Word, most significant first, changing nothing.
Derived: 41_memory_component.md (R133; result as a Word by D5). -/
def Obligations.MemLoadWordReturnsBigEndian : Prop :=
  ∀ (s : State) (p : Nat), ∃ w, exec (.memLoadW p) s = .next (s.answered (.ok (.word w)) none) ∧
    ∀ k < 32, w.extractLsb' (248 - 8 * k) 8 = s.mem.readByte (p + k)

/-- STO.STORE overwrites one key and STO.LOAD returns a key's value, zero bytes for an unknown one.
Derived: 42_storage_component.md (R140, R141), 10_state.md section 6 (R31), 00_scope.md section 4 (R10; the form of sto_init and of KeyT is the model's, log 9). -/
def Obligations.StorageStoreAndLoad : Prop :=
  (∀ c : Command, (c.sel = 0x120 → c.argVal.length = 32 → decode c = .ok (.stoStore c.argKey c.argVal)) ∧
    (c.sel = 0x121 → decode c = .ok (.stoLoad c.argKey))) ∧
  ∀ (s : State) (k : Int), s.keyOk k →
    (∀ v, ∃ st, exec (.stoStore k v) s = .next ((s.withSto st).answered (.ok .none) none) ∧
      st.read k = v ∧ (∀ j, j ≠ k → st.read j = s.sto.read j) ∧ st.base = s.sto.base ∧
      (s.sto.base = none → v = List.replicate 32 0 → ∀ c ∈ st.cells, c.1 ≠ k)) ∧
    (∃ v, exec (.stoLoad k) s = .next (s.answered (.ok (.val v)) none) ∧ v = s.sto.read k ∧
      ((∀ c ∈ s.sto.cells, c.1 ≠ k) → (s.sto.base = none → v = List.replicate 32 0) ∧
        ∀ n, s.sto.base = some n → v = (Config.stoInit n k).toList))

/-- Storage stores to different keys commute, and a store of 32 zero bytes undoes every store to its key.
Derived: 42_storage_component.md (R140, corner case of zeros(32); R142 a, R142 b). -/
def Obligations.StoresCommuteAndZeroUndoesThem : Prop :=
  ∀ (s : State) (k : Int) (v : Bytes), Storage.wf s.sto → v.length = 32 →
    (∀ k' v', k ≠ k' → v'.length = 32 → ∀ t t' u u',
      exec (.stoStore k v) s = .next t → exec (.stoStore k' v') t = .next u →
      exec (.stoStore k' v') s = .next t' → exec (.stoStore k v) t' = .next u' → u = u') ∧
    (s.keyOk k → ∃ t, exec (.stoStore k (List.replicate 32 0)) s = .next t ∧
      t.sto.read k = List.replicate 32 0 ∧ (∀ j, j ≠ k → t.sto.read j = s.sto.read j) ∧
      (∀ u w, exec (.stoStore k v) s = .next u → exec (.stoStore k (List.replicate 32 0)) u = .next w → w.sto = t.sto) ∧
      (s.sto.base = none → (∀ c ∈ t.sto.cells, c.1 ≠ k) ∧ ((∀ c ∈ s.sto.cells, c.1 ≠ k) → t.sto = s.sto)))

/-- The status of a response is 0 for OK and the number of its error kind else, and no other status is returned.
Derived: 10_state.md section 8 (R43), 60_exceptions.md sections 1 and 2 (R301, R306; numbers by D5, log 21). -/
def Obligations.ResponseStatusNumbers : Prop :=
  (∀ r, (Response.ok r).status = 0) ∧ (Response.error .stackOverflow).status = 1 ∧
  (Response.error .stackUnderflow).status = 2 ∧ (Response.error .emptyStack).status = 3 ∧
  (Response.error .indexOutOfRange).status = 4 ∧ (Response.error .invalidPushSize).status = 5 ∧
  (Response.error .invalidDupSize).status = 6 ∧ (Response.error .invalidSwapSize).status = 7 ∧
  (Response.error .pushSizeExceedsCodeSize).status = 8 ∧
  ∀ (i : Instr) (s t : State), exec i s = .next t → ∃ r, t.rspPort = some r ∧
    (r.status = 0 ↔ errorOf (exec i s) = none) ∧ r.status ∈ [0, 1, 2, 3, 4, 8]
end

