-- ==== Sys2Proof/Laws/Arithmetic.lean ====
section
/-! SUPPORT. The readings of W, the number EXP's loop computes, and the value of a boolean as a Word. -/

namespace Sys2Proof.Machine

/-- R13: `U(W(n)) = n mod 2^256`, for a natural number. -/
theorem U_W_natCast (n : Nat) : U (W n) = n % 2 ^ 256 := by
  simp only [W, BitVec.ofInt_natCast, BitVec.toNat_ofNat]

/-- A natural number below 2^256 is read back from its Word. -/
theorem U_W_of_lt {n : Nat} (h : n < 2 ^ 256) : U (W n) = n := by rw [U_W_natCast, Nat.mod_eq_of_lt h]

/-- R13: `U(W(n)) = n mod 2^256`, for any integer. -/
theorem U_W (n : Int) : (U (W n) : Int) = n % 2 ^ 256 := by
  simp only [W, BitVec.toNat_ofInt]
  rw [Int.toNat_of_nonneg (Int.emod_nonneg _ (by norm_num))]
  norm_num

/-- An integer in the signed range is read back from its Word. -/
theorem S_W_of_range {n : Int} (h1 : -2 ^ 255 ≤ n) (h2 : n < 2 ^ 255) : S (W n) = n := by
  simp only [W, BitVec.toInt_ofInt]
  exact Int.bmod_eq_of_le (by norm_num at *; omega) (by norm_num at *; omega)

/-- R13: the signed range. -/
theorem S_range (w : Word) : -2 ^ 255 ≤ S w ∧ S w < 2 ^ 255 :=
  ⟨by have := w.le_toInt; norm_num at *; omega, by have := w.toInt_lt; norm_num at *; omega⟩

/-- R160: the loop computes the power. -/
theorem powLoop_eq (fuel : Nat) (b : Word) (e : Nat) (h : e < 2 ^ fuel) : powLoop fuel b e = b ^ e := by
  induction fuel generalizing b e with
  | zero => simp only [pow_zero, Nat.lt_one_iff] at h; simp [powLoop, h]
  | succ fuel ih =>
    have hlt : e / 2 < 2 ^ fuel := by rw [pow_succ] at h; omega
    simp only [powLoop, ih _ _ hlt]
    split
    · simp [*]
    · have e2 : (b * b) ^ (e / 2) = b ^ (2 * (e / 2)) := by rw [pow_mul, pow_two]
      split
      · conv_rhs => rw [show e = 2 * (e / 2) + 1 by omega, pow_succ, ← e2]
        rw [BitVec.mul_comm]
      · conv_rhs => rw [show e = 2 * (e / 2) by omega, ← e2]

/-- R160: EXP's result is `x` multiplied `U(y)` times. -/
theorem expResult_eq (x y : Word) : expResult x y = x ^ U y := powLoop_eq 256 x (U y) y.isLt

@[simp] theorem boolWord_true : boolWord true = 1 := rfl
@[simp] theorem boolWord_false : boolWord false = 0 := rfl

/-- R170: a comparison pushes no other value. -/
theorem boolWord_cases (b : Bool) : boolWord b = 1 ∨ boolWord b = 0 := by cases b <;> simp

end Sys2Proof.Machine
end

