-- ==== Sys2Proof/Laws/Bytes.lean ====
section
/-! SUPPORT. Big-endian conversion: what the bytes of a Word are, and that the two conversions are inverse. -/

namespace Sys2Proof.Machine

@[simp] theorem be32_length (w : Word) : (be32 w).length = 32 := by simp [be32]

/-- R13: byte `k` of `BE32(w)` is bits `255 - 8k : 248 - 8k`. -/
theorem be32_getElem (w : Word) (k : Nat) (h : k < (be32 w).length) :
    (be32 w)[k] = w.extractLsb' (248 - 8 * k) 8 := by simp [be32]

/-- R13: a byte string of `n` bytes encodes a number below `256 ^ n`. -/
theorem fromBE_lt (b : Bytes) : fromBE b < 256 ^ b.length := by
  induction b with
  | nil => simp [fromBE]
  | cons x b ih =>
    have := x.isLt
    simp only [fromBE, List.length_cons, pow_succ]
    nlinarith

/-- Byte `k` of a byte string is a digit of the number it encodes. -/
theorem fromBE_digit (b : Bytes) (k : Nat) (h : k < b.length) :
    fromBE b / 256 ^ (b.length - 1 - k) % 256 = b[k].toNat := by
  induction b generalizing k with
  | nil => simp at h
  | cons x b ih =>
    cases k with
    | zero =>
      have h1 := fromBE_lt b
      have h2 := x.isLt
      simp only [fromBE, List.length_cons, Nat.add_sub_cancel, Nat.sub_zero, List.getElem_cons_zero]
      rw [Nat.add_comm, Nat.add_mul_div_right _ _ (by positivity), Nat.div_eq_of_lt h1, Nat.zero_add,
        Nat.mod_eq_of_lt h2]
    | succ k =>
      have hk : k < b.length := by simpa using h
      have e : b.length = (b.length - 1 - k) + 1 + k := by omega
      simp only [fromBE, List.length_cons, List.getElem_cons_succ, show b.length + 1 - 1 - (k + 1) = b.length - 1 - k by omega]
      rw [← ih k hk]
      conv_lhs => rw [e, pow_add, pow_succ]
      rw [show b.length - 1 - k + 1 + k - 1 - k = b.length - 1 - k by omega]
      rw [Nat.add_comm, show x.toNat * (256 ^ (b.length - 1 - k) * 256 * 256 ^ k)
        = x.toNat * 256 ^ k * 256 * 256 ^ (b.length - 1 - k) by ring,
        Nat.add_mul_div_right _ _ (by positivity), Nat.add_mul_mod_self_right]

/-- The unsigned value of the Word of at most 32 bytes is the number they encode. -/
theorem wordOfBytes_toNat {b : Bytes} (h : b.length ≤ 32) : (wordOfBytes b).toNat = fromBE b := by
  have h1 := fromBE_lt b
  have h2 : 256 ^ b.length ≤ 256 ^ 32 := Nat.pow_le_pow_right (by norm_num) h
  simp only [wordOfBytes, W, BitVec.ofInt_natCast, BitVec.toNat_ofNat]
  exact Nat.mod_eq_of_lt (by omega)

/-- R67: byte `k` of 32 bytes is bits `255 - 8k : 248 - 8k` of their Word. -/
theorem wordOfBytes_byte {b : Bytes} (h : b.length = 32) (k : Nat) (hk : k < b.length) :
    (wordOfBytes b).extractLsb' (248 - 8 * k) 8 = b[k] := by
  apply BitVec.eq_of_toNat_eq
  have h2 := fromBE_digit b k hk
  rw [BitVec.extractLsb'_toNat, wordOfBytes_toNat h.le, Nat.shiftRight_eq_div_pow, ← h2,
    show 248 - 8 * k = 8 * (b.length - 1 - k) by omega, pow_mul]
  norm_num

/-- Two Words with the same 32 bytes are equal. -/
theorem word_ext_bytes {v w : Word} (h : ∀ k < 32, v.extractLsb' (248 - 8 * k) 8 = w.extractLsb' (248 - 8 * k) 8) :
    v = w := by
  apply BitVec.eq_of_getLsbD_eq
  intro i hi
  have := congrArg (fun b => b.getLsbD (i % 8)) (h (31 - i / 8) (by omega))
  simp only [BitVec.getLsbD_extractLsb', Nat.mod_lt i (by norm_num : 0 < 8), decide_true, Bool.true_and] at this
  rwa [show 248 - 8 * (31 - i / 8) + i % 8 = i by omega] at this

/-- R13: `FromBE(BE32(w)) = U(w)`, as Words. -/
@[simp] theorem wordOfBytes_be32 (w : Word) : wordOfBytes (be32 w) = w :=
  word_ext_bytes fun k hk => by
    rw [wordOfBytes_byte (by simp) k (by simpa using hk), be32_getElem]

/-- R13: `BE32` of the Word of 32 bytes is those bytes. -/
theorem be32_wordOfBytes {b : Bytes} (h : b.length = 32) : be32 (wordOfBytes b) = b :=
  List.ext_getElem (by simp [h]) fun k _ h2 => by
    rw [be32_getElem, wordOfBytes_byte h k h2]

end Sys2Proof.Machine
end

