-- ==== Sys2Proof/Laws/Cells.lean ====
section
/-! SUPPORT. The sparse maps: reading after an update, and the canonical form is kept and determines the list. -/

namespace Sys2Proof.Machine

variable {κ β : Type}

section Get
variable [DecidableEq κ] (d : κ → β)

@[simp] theorem cellsGet_nil (k : κ) : cellsGet d [] k = d k := rfl

theorem cellsGet_cons (c : κ × β) (l : List (κ × β)) (k : κ) :
    cellsGet d (c :: l) k = if c.1 = k then c.2 else cellsGet d l k := rfl

/-- A key that is not listed reads as the default. -/
theorem cellsGet_of_not_listed {l : List (κ × β)} {k : κ} (h : ∀ c ∈ l, c.1 ≠ k) :
    cellsGet d l k = d k := by
  induction l with
  | nil => rfl
  | cons c l ih =>
    rw [cellsGet_cons, if_neg (h c (by simp)), ih fun x hx => h x (by simp [hx])]

/-- Dropping entries whose key is not the one read changes nothing. -/
theorem cellsGet_filter {l : List (κ × β)} {p : κ → Bool} {k : κ} (hk : p k = true) :
    cellsGet d (l.filter fun c => p c.1) k = cellsGet d l k := by
  induction l with
  | nil => rfl
  | cons c l ih =>
    rw [List.filter_cons]
    split
    · rw [cellsGet_cons, cellsGet_cons, ih]
    · rw [cellsGet_cons, ih, if_neg]
      rintro rfl; simp_all

/-- A key whose entries are dropped reads as the default. -/
theorem cellsGet_filter_out {l : List (κ × β)} {p : κ → Bool} {k : κ} (hk : p k = false) :
    cellsGet d (l.filter fun c => p c.1) k = d k := by
  apply cellsGet_of_not_listed
  rintro c hc rfl
  simp [hk] at hc

theorem cellsGet_del (l : List (κ × β)) (k j : κ) :
    cellsGet d (cellsDel l k) j = if j = k then d k else cellsGet d l j := by
  unfold cellsDel
  split
  · rename_i h; subst h; exact cellsGet_filter_out d (p := fun x => decide (x ≠ j)) (by simp)
  · exact cellsGet_filter d (p := fun x => decide (x ≠ k)) (by simp_all)

/-- In canonical form an entry is what its key reads as. -/
theorem cellsGet_of_mem [LinearOrder κ] {l : List (κ × β)} (hl : l.Pairwise fun a b => a.1 < b.1) {c : κ × β}
    (hc : c ∈ l) : cellsGet d l c.1 = c.2 := by
  induction l with
  | nil => simp at hc
  | cons a l ih =>
    rw [List.pairwise_cons] at hl
    rw [cellsGet_cons]
    rcases List.mem_cons.mp hc with rfl | hc
    · simp
    · rw [if_neg (ne_of_lt (hl.1 c hc)), ih hl.2 hc]

end Get

section Set
variable [LinearOrder κ]

theorem mem_cellsIns {l : List (κ × β)} {k : κ} {v : β} {c : κ × β} :
    c ∈ cellsIns l k v ↔ c = (k, v) ∨ c ∈ l := by
  induction l with
  | nil => simp [cellsIns]
  | cons a l ih =>
    simp only [cellsIns]
    split <;> simp_all only [List.mem_cons]; tauto

theorem cellsIns_pairwise {l : List (κ × β)} {k : κ} {v : β} (hl : l.Pairwise fun a b => a.1 < b.1)
    (hk : ∀ c ∈ l, c.1 ≠ k) : (cellsIns l k v).Pairwise fun a b => a.1 < b.1 := by
  induction l with
  | nil => simp [cellsIns]
  | cons a l ih =>
    have ha := List.pairwise_cons.mp hl
    simp only [cellsIns]
    split
    · rename_i h
      refine List.pairwise_cons.mpr ⟨fun c hc => ?_, hl⟩
      rcases List.mem_cons.mp hc with rfl | hc
      · exact h
      · exact h.trans (ha.1 c hc)
    · rename_i h
      refine List.pairwise_cons.mpr ⟨fun c hc => ?_, ih ha.2 fun c hc => hk c (by simp [hc])⟩
      rcases mem_cellsIns.mp hc with rfl | hc
      · exact lt_of_le_of_ne (not_lt.mp h) (hk a (by simp))
      · exact ha.1 c hc

theorem cellsGet_ins [DecidableEq κ] (d : κ → β) {l : List (κ × β)} {k : κ} {v : β} (hk : ∀ c ∈ l, c.1 ≠ k) (j : κ) :
    cellsGet d (cellsIns l k v) j = if j = k then v else cellsGet d l j := by
  induction l with
  | nil => simp [cellsIns, cellsGet_cons, eq_comm (a := j)]
  | cons a l ih =>
    have ha := hk a (by simp)
    have ih := ih fun c hc => hk c (by simp [hc])
    simp only [cellsIns]
    split
    · simp only [eq_comm (a := j), cellsGet_cons d (k, v)]
    · rw [cellsGet_cons, cellsGet_cons, ih]
      by_cases h : j = k
      · subst h; simp [ha]
      · simp [h]

/-- Reading after a write: the key written reads as the value, every other key as before. It needs no canonical form. -/
theorem cellsGet_set [DecidableEq κ] [DecidableEq β] (d : κ → β) (l : List (κ × β)) (k : κ) (v : β) (j : κ) :
    cellsGet d (cellsSet d l k v) j = if j = k then v else cellsGet d l j := by
  unfold cellsSet
  split
  · rename_i h; rw [cellsGet_del, h]
  · rw [cellsGet_ins, cellsGet_del]
    · split <;> rfl
    · intro c hc; simp [cellsDel] at hc; exact hc.2

theorem mem_cellsSet [DecidableEq κ] [DecidableEq β] {d : κ → β} {l : List (κ × β)} {k : κ} {v : β} {c : κ × β}
    (hc : c ∈ cellsSet d l k v) : (c = (k, v) ∧ v ≠ d k) ∨ (c ∈ l ∧ c.1 ≠ k) := by
  unfold cellsSet at hc
  split at hc
  · exact .inr (by simpa [cellsDel] using hc)
  · rcases mem_cellsIns.mp hc with h | h
    · exact .inl ⟨h, ‹_›⟩
    · exact .inr (by simpa [cellsDel] using h)

/-- A write keeps the canonical form. -/
theorem cellsSet_canonical [DecidableEq κ] [DecidableEq β] {d : κ → β} {l : List (κ × β)} (h : CellsCanonical d l) (k : κ)
    (v : β) : CellsCanonical d (cellsSet d l k v) := by
  refine ⟨?_, fun c hc => ?_⟩
  · unfold cellsSet
    split
    · exact h.1.filter _
    · exact cellsIns_pairwise (h.1.filter _) fun c hc => by simp [cellsDel] at hc; exact hc.2
  · rcases mem_cellsSet hc with ⟨rfl, hv⟩ | hc
    · exact hv
    · exact h.2 c hc.1

theorem cellsFilter_canonical {d : κ → β} {l : List (κ × β)} (h : CellsCanonical d l) (p : κ × β → Bool) :
    CellsCanonical d (l.filter p) :=
  ⟨h.1.filter _, fun c hc => h.2 c (List.mem_of_mem_filter hc)⟩

/-- Two canonical lists that read alike are one list. -/
theorem cells_ext [DecidableEq κ] {d : κ → β} {l m : List (κ × β)} (hl : CellsCanonical d l) (hm : CellsCanonical d m)
    (h : ∀ k, cellsGet d l k = cellsGet d m k) : l = m := by
  have key : ∀ {l m : List (κ × β)}, CellsCanonical d l → CellsCanonical d m →
      (∀ k, cellsGet d l k = cellsGet d m k) → ∀ c ∈ l, c ∈ m := by
    intro l m hl hm h c hc
    have h1 : cellsGet d m c.1 = c.2 := by rw [← h]; exact cellsGet_of_mem d hl.1 hc
    by_contra hne
    by_cases hk : ∃ c' ∈ m, c'.1 = c.1
    · obtain ⟨c', hc', hk⟩ := hk
      have h2 := cellsGet_of_mem d hm.1 hc'
      rw [hk, h1] at h2
      exact hne (by rwa [Prod.ext hk.symm h2])
    · rw [cellsGet_of_not_listed d fun x hx he => hk ⟨x, hx, he⟩] at h1
      exact hl.2 c hc h1.symm
  have nodup : ∀ {l : List (κ × β)}, CellsCanonical d l → l.Nodup := fun hl =>
    hl.1.imp fun {a b} hab => by rintro rfl; exact lt_irrefl _ hab
  have perm : l.Perm m := (List.perm_ext_iff_of_nodup (nodup hl) (nodup hm)).mpr fun c =>
    ⟨key hl hm h c, key hm hl (fun k => (h k).symm) c⟩
  exact perm.eq_of_pairwise (fun a b _ _ hab hba => absurd hba (lt_asymm hab)) hl.1 hm.1

end Set

end Sys2Proof.Machine
end

