-- ==== Sys2Proof/Laws/Decode.lean ====
section
/-! SUPPORT. The decoder: what it answers, in terms of the row of the select. -/

namespace Sys2Proof

/-- R90: the select a command is encoded under. -/
@[simp] theorem encode_sel (i : Instr) : (encode i).sel = i.sel := by cases i <;> rfl

/-- A row found is a row of the map, under the select asked for. -/
theorem rowOf_some {sel : BitVec 9} {r : OpRow} (h : rowOf sel = some r) : r ∈ opcodeRows ∧ r.sel = sel :=
  ⟨List.mem_of_find?_eq_some h, by simpa using List.find?_some h⟩

/-- The three cases of decoding. -/
theorem decode_cases (c : Command) :
    (rowOf c.sel = none ∧ decode c = .error (.invalidSelect c.sel)) ∨
    (∃ r, rowOf c.sel = some r ∧ (r.build c).wellFormed = true ∧ decode c = .ok (r.build c)) ∨
    (∃ r, rowOf c.sel = some r ∧ (r.build c).wellFormed = false ∧ decode c = .error (.valueLength c.argVal.length)) := by
  unfold decode
  cases h : rowOf c.sel with
  | none => exact .inl ⟨rfl, rfl⟩
  | some r =>
    cases hw : (r.build c).wellFormed with
    | true => exact .inr (.inl ⟨r, rfl, hw, if_pos hw⟩)
    | false => exact .inr (.inr ⟨r, rfl, hw, if_neg (by simp [hw])⟩)

/-- What decodes is what its row builds, and it is well-formed. -/
theorem decode_ok {c : Command} {i : Instr} (h : decode c = .ok i) :
    ∃ r, rowOf c.sel = some r ∧ i = r.build c ∧ i.wellFormed = true := by
  obtain ⟨-, e⟩ | ⟨r, hr, hw, e⟩ | ⟨r, -, -, e⟩ := decode_cases c <;> rw [e] at h <;> cases h
  exact ⟨r, hr, rfl, hw⟩

/-- The length a well-formed STO.STORE carries (R42). -/
theorem wellFormed_stoStore {k : Int} {v : Bytes} : (Instr.stoStore k v).wellFormed = true ↔ v.length = 32 := by
  simp [Instr.wellFormed]

end Sys2Proof
end

