-- ==== Sys2Proof/Laws/Memory.lean ====
section
/-! SUPPORT. Memory and Storage: reading after a write, the length, and the canonical form. -/

namespace Sys2Proof.Machine

@[simp] theorem Memory.read_zero (m : Memory) (a : Nat) : m.read a 0 = [] := rfl

theorem Memory.read_succ (m : Memory) (a n : Nat) : m.read a (n + 1) = m.readByte a :: m.read (a + 1) n := rfl

/-- R62: the result has length exactly `n`. -/
@[simp] theorem Memory.read_length (m : Memory) (a n : Nat) : (m.read a n).length = n := by
  induction n generalizing a with
  | zero => rfl
  | succ n ih => simp [Memory.read_succ, ih]

theorem Memory.read_getElem (m : Memory) (a n k : Nat) (h : k < (m.read a n).length) :
    (m.read a n)[k] = m.readByte (a + k) := by
  induction n generalizing a k with
  | zero => simp at h
  | succ n ih =>
    cases k with
    | zero => rfl
    | succ k =>
      have := ih (a + 1) k (by simpa using h)
      simp only [Memory.read_succ, List.getElem_cons_succ, this]
      congr 1; omega

/-- A range reads alike in two Memories that agree on its bytes. -/
theorem Memory.read_congr {m m' : Memory} {a n : Nat} (h : ∀ k < n, m.readByte (a + k) = m'.readByte (a + k)) :
    m.read a n = m'.read a n :=
  List.ext_getElem (by simp) fun k h1 _ => by
    rw [Memory.read_getElem, Memory.read_getElem, h k (by simpa using h1)]

/-- R62: a byte at or past `mlen` reads as zero. -/
theorem Memory.readByte_of_le {m : Memory} {a : Nat} (h : m.mlen ≤ a) : m.readByte a = 0 :=
  if_neg (by omega)

theorem Memory.grow_mlen (m : Memory) (n : Nat) : (m.grow n).mlen = max m.mlen n := by
  unfold Memory.grow; split <;> simp <;> omega

/-- R63: growth zero-fills, so every byte reads as before. -/
@[simp] theorem Memory.grow_readByte (m : Memory) (n a : Nat) : (m.grow n).readByte a = m.readByte a := by
  unfold Memory.grow
  split
  · unfold Memory.readByte
    by_cases h : a < m.mlen
    · have := cellsGet_filter Memory.unlisted (l := m.cells) (p := fun x => decide (x < m.mlen)) (k := a) (by simpa)
      simp only [this]
      rw [if_pos (by omega : a < n), if_pos h]
    · have := cellsGet_filter_out Memory.unlisted (l := m.cells) (p := fun x => decide (x < m.mlen)) (k := a)
        (by simpa using h)
      rw [if_neg h]
      simp only [this]
      exact ite_self _
  · rfl

theorem cellsGet_writeCells (l : List Host.Cell) (a : Nat) (v : Bytes) (j : Nat) :
    cellsGet Memory.unlisted (writeCells l a v) j =
      if h : a ≤ j ∧ j < a + v.length then v[j - a] else cellsGet Memory.unlisted l j := by
  induction v generalizing l a with
  | nil => rw [dif_neg (by simp only [List.length_nil]; omega)]; rfl
  | cons b v ih =>
    rw [writeCells, ih, cellsGet_set]
    rcases lt_trichotomy j a with h | rfl | h
    · rw [dif_neg (by omega), if_neg (by omega), dif_neg (by omega)]
    · rw [dif_neg (by omega), if_pos rfl, dif_pos (by simp)]; simp
    · by_cases h2 : j < a + (v.length + 1)
      · rw [dif_pos (by omega), dif_pos (by simp only [List.length_cons]; omega)]
        simp only [show j - a = j - (a + 1) + 1 by omega, List.getElem_cons_succ]
      · rw [dif_neg (by omega), dif_neg (by simp only [List.length_cons]; omega), if_neg (by omega)]

/-- R64 (b): the length after a write. -/
@[simp] theorem Memory.write_mlen (m : Memory) (a : Nat) (v : Bytes) :
    (m.write a v).mlen = max m.mlen (a + v.length) := Memory.grow_mlen ..

/-- R63: a byte after a write is the byte written, or what it was. It needs no canonical form. -/
theorem Memory.write_readByte (m : Memory) (a : Nat) (v : Bytes) (j : Nat) :
    (m.write a v).readByte j = if h : a ≤ j ∧ j < a + v.length then v[j - a] else m.readByte j := by
  have hl := m.write_mlen a v
  rw [← Memory.grow_readByte m (a + v.length) j]
  unfold Memory.readByte
  rw [hl, Memory.grow_mlen]
  simp only [Memory.write, cellsGet_writeCells]
  by_cases h : a ≤ j ∧ j < a + v.length
  · rw [dif_pos h, if_pos (by omega)]; simp [h]
  · simp [h]

/-- R63: every byte outside the stored range reads as before. -/
theorem Memory.write_readByte_outside {m : Memory} {a : Nat} {v : Bytes} {j : Nat} (h : j < a ∨ a + v.length ≤ j) :
    (m.write a v).readByte j = m.readByte j := by
  rw [Memory.write_readByte, dif_neg (by omega)]

theorem Memory.write_readByte_inside {m : Memory} {a : Nat} {v : Bytes} {k : Nat} (h : k < v.length) :
    (m.write a v).readByte (a + k) = v[k] := by
  rw [Memory.write_readByte, dif_pos (by omega)]; simp

theorem Memory.grow_wf {m : Memory} (h : m.wf) (n : Nat) : (m.grow n).wf := by
  unfold Memory.grow
  split
  · refine ⟨cellsFilter_canonical h.1 _, fun c hc => ?_⟩
    have := h.2 c (List.mem_of_mem_filter hc)
    simp only; omega
  · exact h

theorem writeCells_canonical {l : List Host.Cell} (h : CellsCanonical Memory.unlisted l) (a : Nat) (v : Bytes) :
    CellsCanonical Memory.unlisted (writeCells l a v) := by
  induction v generalizing l a with
  | nil => exact h
  | cons b v ih => exact ih (cellsSet_canonical h a b) (a + 1)

theorem mem_writeCells {l : List Host.Cell} {a : Nat} {v : Bytes} {c : Host.Cell} (hc : c ∈ writeCells l a v) :
    c ∈ l ∨ (a ≤ c.1 ∧ c.1 < a + v.length) := by
  induction v generalizing l a with
  | nil => exact .inl hc
  | cons b v ih =>
    rcases ih hc with h | h
    · rcases mem_cellsSet h with ⟨rfl, -⟩ | h
      · right; simp
      · exact .inl h.1
    · right; simp only [List.length_cons]; omega

/-- A write keeps the canonical form of Memory. -/
theorem Memory.write_wf {m : Memory} (h : m.wf) (a : Nat) (v : Bytes) : (m.write a v).wf := by
  have hg := Memory.grow_wf h (a + v.length)
  refine ⟨writeCells_canonical hg.1 a v, fun c hc => ?_⟩
  have hl := Memory.grow_mlen m (a + v.length)
  show c.1 < (m.grow (a + v.length)).mlen
  rcases mem_writeCells hc with hc | hc
  · exact hg.2 c hc
  · omega

/-- Two canonical Memories of one length that read alike are one Memory. -/
theorem Memory.ext_readByte {m m' : Memory} (h : m.wf) (h' : m'.wf) (hl : m.mlen = m'.mlen)
    (hb : ∀ a < m.mlen, m.readByte a = m'.readByte a) : m = m' := by
  have hc : m.cells = m'.cells := by
    refine cells_ext h.1 h'.1 fun k => ?_
    by_cases hk : k < m.mlen
    · have := hb k hk
      simpa only [Memory.readByte, if_pos hk, if_pos (hl ▸ hk)] using this
    · have h1 : ∀ c ∈ m.cells, c.1 ≠ k := fun c hc e => hk (by have := h.2 c hc; omega)
      have h2 : ∀ c ∈ m'.cells, c.1 ≠ k := fun c hc e => hk (by have := h'.2 c hc; omega)
      rw [cellsGet_of_not_listed _ h1, cellsGet_of_not_listed _ h2]
  cases m; cases m'; simp_all

/-- A store changes neither the map Storage started as nor what an unlisted key reads as. -/
@[simp] theorem Storage.write_base (st : Storage) (k : Int) (v : Bytes) : (st.write k v).base = st.base := rfl
@[simp] theorem Storage.write_unlisted (st : Storage) (k : Int) (v : Bytes) : (st.write k v).unlisted = st.unlisted := rfl

/-- R31: a key never written reads as what it started as. -/
theorem Storage.read_of_not_listed {st : Storage} {k : Int} (h : ∀ c ∈ st.cells, c.1 ≠ k) :
    st.read k = st.unlisted k := cellsGet_of_not_listed _ h

/-- With no `sto_init`, a key never written reads as 32 zero bytes. -/
theorem Storage.unlisted_of_none {st : Storage} (h : st.base = none) (k : Int) : st.unlisted k = zeros 32 := by
  simp [Storage.unlisted, h]

/-- R142 (a): a load after a store. -/
theorem Storage.read_write (st : Storage) (k : Int) (v : Bytes) (j : Int) :
    Storage.read (Storage.write st k v) j = if j = k then v else Storage.read st j := cellsGet_set ..

/-- A store of 32 bytes keeps the canonical form of Storage. -/
theorem Storage.write_wf {st : Storage} (h : Storage.wf st) (k : Int) {v : Bytes} (hv : v.length = 32) :
    Storage.wf (Storage.write st k v) := by
  refine ⟨cellsSet_canonical h.1 k v, fun c hc => ?_⟩
  rcases mem_cellsSet hc with ⟨rfl, -⟩ | hc
  · exact hv
  · exact h.2 c hc.1

/-- Two canonical Storages over one map that read alike are one Storage. -/
theorem Storage.ext_read {st st' : Storage} (h : Storage.wf st) (h' : Storage.wf st') (hb : st.base = st'.base)
    (hr : ∀ k, Storage.read st k = Storage.read st' k) : st = st' := by
  obtain ⟨b, l⟩ := st
  obtain ⟨b', l'⟩ := st'
  obtain rfl : b = b' := hb
  exact congrArg (Storage.mk b) (cells_ext h.1 h'.1 hr)

end Sys2Proof.Machine
end

