-- ==== Sys2Proof/Laws/State.lean ====
section
/-! SUPPORT. One lemma per field of State for every named update, so that no proof unfolds a record update. -/

namespace Sys2Proof.Machine

variable (s : State)

@[simp] theorem State.withStack_stack (l : List Word) : (s.withStack l).stack = l := rfl
@[simp] theorem State.withStack_mem (l : List Word) : (s.withStack l).mem = s.mem := rfl
@[simp] theorem State.withStack_sto (l : List Word) : (s.withStack l).sto = s.sto := rfl
@[simp] theorem State.withStack_pc (l : List Word) : (s.withStack l).pc = s.pc := rfl
@[simp] theorem State.withStack_code (l : List Word) : (s.withStack l).code = s.code := rfl
@[simp] theorem State.withStack_params (l : List Word) : (s.withStack l).params = s.params := rfl
@[simp] theorem State.withStack_cmdPort (l : List Word) : (s.withStack l).cmdPort = s.cmdPort := rfl
@[simp] theorem State.withStack_rspPort (l : List Word) : (s.withStack l).rspPort = s.rspPort := rfl
@[simp] theorem State.withStack_hashPort (l : List Word) : (s.withStack l).hashPort = s.hashPort := rfl

@[simp] theorem State.withMem_stack (m : Memory) : (s.withMem m).stack = s.stack := rfl
@[simp] theorem State.withMem_mem (m : Memory) : (s.withMem m).mem = m := rfl
@[simp] theorem State.withMem_sto (m : Memory) : (s.withMem m).sto = s.sto := rfl
@[simp] theorem State.withMem_pc (m : Memory) : (s.withMem m).pc = s.pc := rfl
@[simp] theorem State.withMem_code (m : Memory) : (s.withMem m).code = s.code := rfl
@[simp] theorem State.withMem_params (m : Memory) : (s.withMem m).params = s.params := rfl
@[simp] theorem State.withMem_cmdPort (m : Memory) : (s.withMem m).cmdPort = s.cmdPort := rfl
@[simp] theorem State.withMem_rspPort (m : Memory) : (s.withMem m).rspPort = s.rspPort := rfl
@[simp] theorem State.withMem_hashPort (m : Memory) : (s.withMem m).hashPort = s.hashPort := rfl

@[simp] theorem State.withSto_stack (st : Storage) : (s.withSto st).stack = s.stack := rfl
@[simp] theorem State.withSto_mem (st : Storage) : (s.withSto st).mem = s.mem := rfl
@[simp] theorem State.withSto_sto (st : Storage) : (s.withSto st).sto = st := rfl
@[simp] theorem State.withSto_pc (st : Storage) : (s.withSto st).pc = s.pc := rfl
@[simp] theorem State.withSto_code (st : Storage) : (s.withSto st).code = s.code := rfl
@[simp] theorem State.withSto_params (st : Storage) : (s.withSto st).params = s.params := rfl
@[simp] theorem State.withSto_cmdPort (st : Storage) : (s.withSto st).cmdPort = s.cmdPort := rfl
@[simp] theorem State.withSto_rspPort (st : Storage) : (s.withSto st).rspPort = s.rspPort := rfl
@[simp] theorem State.withSto_hashPort (st : Storage) : (s.withSto st).hashPort = s.hashPort := rfl

@[simp] theorem State.withPc_stack (n : Nat) : (s.withPc n).stack = s.stack := rfl
@[simp] theorem State.withPc_mem (n : Nat) : (s.withPc n).mem = s.mem := rfl
@[simp] theorem State.withPc_sto (n : Nat) : (s.withPc n).sto = s.sto := rfl
@[simp] theorem State.withPc_pc (n : Nat) : (s.withPc n).pc = n := rfl
@[simp] theorem State.withPc_code (n : Nat) : (s.withPc n).code = s.code := rfl
@[simp] theorem State.withPc_params (n : Nat) : (s.withPc n).params = s.params := rfl
@[simp] theorem State.withPc_cmdPort (n : Nat) : (s.withPc n).cmdPort = s.cmdPort := rfl
@[simp] theorem State.withPc_rspPort (n : Nat) : (s.withPc n).rspPort = s.rspPort := rfl
@[simp] theorem State.withPc_hashPort (n : Nat) : (s.withPc n).hashPort = s.hashPort := rfl

@[simp] theorem State.withCmds_stack (l : List Command) : (s.withCmds l).stack = s.stack := rfl
@[simp] theorem State.withCmds_mem (l : List Command) : (s.withCmds l).mem = s.mem := rfl
@[simp] theorem State.withCmds_sto (l : List Command) : (s.withCmds l).sto = s.sto := rfl
@[simp] theorem State.withCmds_pc (l : List Command) : (s.withCmds l).pc = s.pc := rfl
@[simp] theorem State.withCmds_code (l : List Command) : (s.withCmds l).code = s.code := rfl
@[simp] theorem State.withCmds_params (l : List Command) : (s.withCmds l).params = s.params := rfl
@[simp] theorem State.withCmds_cmdPort (l : List Command) : (s.withCmds l).cmdPort = l := rfl
@[simp] theorem State.withCmds_rspPort (l : List Command) : (s.withCmds l).rspPort = s.rspPort := rfl
@[simp] theorem State.withCmds_hashPort (l : List Command) : (s.withCmds l).hashPort = s.hashPort := rfl

@[simp] theorem State.answered_stack (r : Response) (h : Option Bytes) : (s.answered r h).stack = s.stack := rfl
@[simp] theorem State.answered_mem (r : Response) (h : Option Bytes) : (s.answered r h).mem = s.mem := rfl
@[simp] theorem State.answered_sto (r : Response) (h : Option Bytes) : (s.answered r h).sto = s.sto := rfl
@[simp] theorem State.answered_pc (r : Response) (h : Option Bytes) : (s.answered r h).pc = s.pc := rfl
@[simp] theorem State.answered_code (r : Response) (h : Option Bytes) : (s.answered r h).code = s.code := rfl
@[simp] theorem State.answered_params (r : Response) (h : Option Bytes) : (s.answered r h).params = s.params := rfl
@[simp] theorem State.answered_cmdPort (r : Response) (h : Option Bytes) : (s.answered r h).cmdPort = s.cmdPort := rfl
@[simp] theorem State.answered_rspPort (r : Response) (h : Option Bytes) : (s.answered r h).rspPort = some r := rfl
@[simp] theorem State.answered_hashPort (r : Response) (h : Option Bytes) : (s.answered r h).hashPort = h := rfl

/-! An update with the value a state has changes nothing; the later of two updates of one field stands; updates of
different fields are kept in the order withMem, withSto, withStack, withPc, withCmds, answered. -/

@[simp] theorem State.withStack_self : s.withStack s.stack = s := rfl
@[simp] theorem State.withMem_self : s.withMem s.mem = s := rfl
@[simp] theorem State.withSto_self : s.withSto s.sto = s := rfl
@[simp] theorem State.withPc_self : s.withPc s.pc = s := rfl
@[simp] theorem State.withCmds_self : s.withCmds s.cmdPort = s := rfl
@[simp] theorem State.withStack_withStack (l m : List Word) : (s.withStack l).withStack m = s.withStack m := rfl
@[simp] theorem State.withMem_withMem (m n : Memory) : (s.withMem m).withMem n = s.withMem n := rfl
@[simp] theorem State.withCmds_withCmds (l m : List Command) : (s.withCmds l).withCmds m = s.withCmds m := rfl
@[simp] theorem State.answered_answered (r r' : Response) (h h' : Option Bytes) :
    (s.answered r h).answered r' h' = s.answered r' h' := rfl
@[simp] theorem State.answered_withStack (r : Response) (h : Option Bytes) (l : List Word) :
    (s.answered r h).withStack l = (s.withStack l).answered r h := rfl
@[simp] theorem State.answered_withMem (r : Response) (h : Option Bytes) (m : Memory) :
    (s.answered r h).withMem m = (s.withMem m).answered r h := rfl
@[simp] theorem State.answered_withSto (r : Response) (h : Option Bytes) (st : Storage) :
    (s.answered r h).withSto st = (s.withSto st).answered r h := rfl
@[simp] theorem State.answered_withPc (r : Response) (h : Option Bytes) (n : Nat) :
    (s.answered r h).withPc n = (s.withPc n).answered r h := rfl

/-! The size is the length of the Stack and only `withStack` changes it. -/

theorem State.size_eq : s.size = s.stack.length := rfl
@[simp] theorem State.withStack_size (l : List Word) : (s.withStack l).size = l.length := rfl
@[simp] theorem State.withMem_size (m : Memory) : (s.withMem m).size = s.size := rfl
@[simp] theorem State.withSto_size (st : Storage) : (s.withSto st).size = s.size := rfl
@[simp] theorem State.withPc_size (n : Nat) : (s.withPc n).size = s.size := rfl
@[simp] theorem State.withCmds_size (l : List Command) : (s.withCmds l).size = s.size := rfl
@[simp] theorem State.answered_size (r : Response) (h : Option Bytes) : (s.answered r h).size = s.size := rfl

/-! A response is always a next state, and it says which. -/

theorem raise_eq (e : ErrorKind) : raise e s = .next (s.answered (.error e) none) := rfl
theorem respond_eq (r : Result) : respond r s = .next (s.answered (.ok r) none) := rfl

end Sys2Proof.Machine
end

