-- ==== Sys2Proof/Laws/Operands.lean ====
section
/-! SUPPORT. Each shared operation, once: every case it has, and what it answers in it. -/

namespace Sys2Proof.Machine

variable {s : State}

/-! ## The Stack primitives -/

theorem push_of_full {v : Word} (h : s.size = Config.stackCap) : push v s = .error .stackOverflow := if_pos h

theorem push_of_room {v : Word} (h : s.size ≠ Config.stackCap) : push v s = .ok (s.withStack (v :: s.stack)) := if_neg h

theorem pop_of_nil (h : s.stack = []) : pop s = .error .stackUnderflow := by simp [pop, h]

theorem pop_of_cons {v : Word} {l : List Word} (h : s.stack = v :: l) : pop s = .ok (v, s.withStack l) := by
  simp [pop, h]

theorem peek_of_empty {d : Nat} (h : s.size = 0) : peek d s = .error .emptyStack := by
  simp [peek, List.length_eq_zero_iff.mp h]

theorem peek_of_deep {d : Nat} (h : s.size ≠ 0) (hd : s.size < d) : peek d s = .error .indexOutOfRange := by
  unfold peek
  rw [State.size_eq] at h hd
  cases hs : s.stack with
  | nil => simp [hs] at h
  | cons v l =>
    rw [hs] at hd
    simp only [List.getElem?_eq_none (show (v :: l).length ≤ d - 1 by omega)]

theorem peek_of_listed {d : Nat} {v : Word} (h : s.stack[d - 1]? = some v) : peek d s = .ok v := by
  unfold peek
  cases hs : s.stack with
  | nil => simp [hs] at h
  | cons a l => rw [hs] at h; simp only [h]

/-- R122: the three cases of `Peek(d)`. -/
theorem peek_cases (d : Nat) (hd : 1 ≤ d) (s : State) :
    (s.size = 0 ∧ peek d s = .error .emptyStack) ∨
    (s.size ≠ 0 ∧ s.size < d ∧ peek d s = .error .indexOutOfRange) ∨
    (∃ v, d ≤ s.size ∧ s.stack[d - 1]? = some v ∧ peek d s = .ok v) := by
  by_cases h0 : s.size = 0
  · exact .inl ⟨h0, peek_of_empty h0⟩
  · by_cases h1 : s.size < d
    · exact .inr (.inl ⟨h0, h1, peek_of_deep h0 h1⟩)
    · have hl : d - 1 < s.stack.length := by rw [State.size_eq] at h1; omega
      have hv := List.getElem?_eq_getElem hl
      exact .inr (.inr ⟨_, by omega, hv, peek_of_listed hv⟩)

theorem swap_of_empty {d : Nat} (h : s.size = 0) : swap d s = .error .emptyStack := by
  simp [swap, List.length_eq_zero_iff.mp h]

theorem swap_of_deep {d : Nat} (h : s.size ≠ 0) (hd : s.size < d) (h2 : 2 ≤ d) :
    swap d s = .error .indexOutOfRange := by
  unfold swap
  rw [State.size_eq] at h hd
  cases hs : s.stack with
  | nil => simp [hs] at h
  | cons v l =>
    rw [hs, List.length_cons] at hd
    simp only [List.getElem?_eq_none (show l.length ≤ d - 2 by omega)]

theorem swap_of_listed {d : Nat} {t v : Word} {l : List Word} (hs : s.stack = t :: l) (h : l[d - 2]? = some v) :
    swap d s = .ok (s.withStack (v :: l.set (d - 2) t)) := by
  simp only [swap, hs, h]

/-- R123: the three cases of `Swap(d)`. -/
theorem swap_cases (d : Nat) (hd : 2 ≤ d) (s : State) :
    (s.size = 0 ∧ swap d s = .error .emptyStack) ∨
    (s.size ≠ 0 ∧ s.size < d ∧ swap d s = .error .indexOutOfRange) ∨
    (∃ t v l, d ≤ s.size ∧ s.stack = t :: l ∧ l[d - 2]? = some v ∧
      swap d s = .ok (s.withStack (v :: l.set (d - 2) t))) := by
  by_cases h0 : s.size = 0
  · exact .inl ⟨h0, swap_of_empty h0⟩
  · by_cases h1 : s.size < d
    · exact .inr (.inl ⟨h0, h1, swap_of_deep h0 h1 hd⟩)
    · rw [State.size_eq] at h0 h1
      cases hs : s.stack with
      | nil => simp [hs] at h0
      | cons t l =>
        have hl : d - 2 < l.length := by rw [hs, List.length_cons] at h1; omega
        have hv := List.getElem?_eq_getElem hl
        exact .inr (.inr ⟨t, _, l, by rw [State.size_eq]; omega, rfl, hv, swap_of_listed hs hv⟩)

/-! ## Operands taken from the stack -/

/-- R150 with one operand: underflow, or one Word replaced. -/
theorem unaryOp_cases (f : Word → Word) (s : State) :
    (s.size < 1 ∧ unaryOp f s = .next (s.answered (.error .stackUnderflow) none)) ∨
    (∃ a l, s.stack = a :: l ∧ unaryOp f s = .next ((s.withStack (f a :: l)).answered (.ok .none) none)) := by
  cases h : s.stack with
  | nil => exact .inl ⟨by simp [State.size_eq, h], by simp [unaryOp, h, raise_eq]⟩
  | cons a l => exact .inr ⟨a, l, rfl, by simp [unaryOp, h, respond_eq]⟩

/-- R150, R164: underflow, or two Words replaced by the result of `x` and `y`. -/
theorem binaryXY_cases (f : Word → Word → Word) (s : State) :
    (s.size < 2 ∧ binaryXY f s = .next (s.answered (.error .stackUnderflow) none)) ∨
    (∃ a b l, s.stack = a :: b :: l ∧ binaryXY f s = .next ((s.withStack
      (f (placeXY s.params.binopOrder a b).1 (placeXY s.params.binopOrder a b).2 :: l)).answered (.ok .none) none)) := by
  match h : s.stack with
  | [] => exact .inl ⟨by simp [State.size_eq, h], by simp [binaryXY, h, raise_eq]⟩
  | [a] => exact .inl ⟨by simp [State.size_eq, h], by simp [binaryXY, h, raise_eq]⟩
  | a :: b :: l => exact .inr ⟨a, b, l, rfl, by simp [binaryXY, h, respond_eq]⟩

/-- R150, R15: underflow, or two Words replaced, the first popped first. -/
theorem binaryTop_cases (f : Word → Word → Word) (s : State) :
    (s.size < 2 ∧ binaryTop f s = .next (s.answered (.error .stackUnderflow) none)) ∨
    (∃ a b l, s.stack = a :: b :: l ∧
      binaryTop f s = .next ((s.withStack (f a b :: l)).answered (.ok .none) none)) := by
  match h : s.stack with
  | [] => exact .inl ⟨by simp [State.size_eq, h], by simp [binaryTop, h, raise_eq]⟩
  | [a] => exact .inl ⟨by simp [State.size_eq, h], by simp [binaryTop, h, raise_eq]⟩
  | a :: b :: l => exact .inr ⟨a, b, l, rfl, by simp [binaryTop, h, respond_eq]⟩

/-- R150 with three operands. -/
theorem ternaryTop_cases (f : Word → Word → Word → Word) (s : State) :
    (s.size < 3 ∧ ternaryTop f s = .next (s.answered (.error .stackUnderflow) none)) ∨
    (∃ a b c l, s.stack = a :: b :: c :: l ∧
      ternaryTop f s = .next ((s.withStack (f a b c :: l)).answered (.ok .none) none)) := by
  match h : s.stack with
  | [] => exact .inl ⟨by simp [State.size_eq, h], by simp [ternaryTop, h, raise_eq]⟩
  | [a] => exact .inl ⟨by simp [State.size_eq, h], by simp [ternaryTop, h, raise_eq]⟩
  | [a, b] => exact .inl ⟨by simp [State.size_eq, h], by simp [ternaryTop, h, raise_eq]⟩
  | a :: b :: c :: l => exact .inr ⟨a, b, c, l, rfl, by simp [ternaryTop, h, respond_eq]⟩

/-! ## Offsets and stores -/

/-- R73: the exact value, or the refusal above OFFSET_LIMIT. -/
theorem wordToOffset_cases (s : State) (w : Word) :
    ((∀ limit ∈ s.params.offsetLimit, U w ≤ limit) ∧ wordToOffset s w = .ok (U w)) ∨
    (∃ limit, s.params.offsetLimit = some limit ∧ limit < U w ∧ wordToOffset s w = .error (.offsetLimit (U w))) := by
  unfold wordToOffset
  cases h : s.params.offsetLimit with
  | none => exact .inl ⟨by simp, rfl⟩
  | some limit =>
    by_cases hw : U w ≤ limit
    · exact .inl ⟨by simpa using hw, by simp only [if_pos hw]⟩
    · exact .inr ⟨limit, rfl, by omega, by simp only [if_neg hw]⟩

/-- R63, R74: the bytes written, or the refusal above MEM_LIMIT. -/
theorem storeMem_cases (s : State) (a : Nat) (v : Bytes) :
    ((∀ limit ∈ s.params.memLimit, a + v.length ≤ limit) ∧ storeMem s a v = .ok (s.withMem (s.mem.write a v))) ∨
    (∃ limit, s.params.memLimit = some limit ∧ limit < a + v.length ∧
      storeMem s a v = .error (.memLimit (a + v.length))) := by
  unfold storeMem
  cases h : s.params.memLimit with
  | none => exact .inl ⟨by simp, rfl⟩
  | some limit =>
    by_cases hw : a + v.length ≤ limit
    · exact .inl ⟨by simpa using hw, by simp only [if_pos hw]⟩
    · exact .inr ⟨limit, rfl, by omega, by simp only [if_neg hw]⟩

/-- R196, R197: every case of a store of the value at the offset on top. -/
theorem storeOp_cases (f : Word → Bytes) (s : State) :
    (s.size < 2 ∧ storeOp f s = .next (s.answered (.error .stackUnderflow) none)) ∨
    (∃ p v l, s.stack = p :: v :: l ∧
      (((∀ limit ∈ s.params.offsetLimit, U p ≤ limit) ∧ (∀ limit ∈ s.params.memLimit, U p + (f v).length ≤ limit) ∧
        storeOp f s = .next (((s.withMem (s.mem.write (U p) (f v))).withStack l).answered (.ok .none) none)) ∨
      (∃ limit, s.params.offsetLimit = some limit ∧ limit < U p ∧ storeOp f s = .refused (.offsetLimit (U p))) ∨
      (∃ limit, (∀ limit ∈ s.params.offsetLimit, U p ≤ limit) ∧ s.params.memLimit = some limit ∧
        limit < U p + (f v).length ∧ storeOp f s = .refused (.memLimit (U p + (f v).length))))) := by
  match h : s.stack with
  | [] => exact .inl ⟨by simp [State.size_eq, h], by simp [storeOp, h, raise_eq]⟩
  | [a] => exact .inl ⟨by simp [State.size_eq, h], by simp [storeOp, h, raise_eq]⟩
  | p :: v :: l =>
    refine .inr ⟨p, v, l, rfl, ?_⟩
    simp only [storeOp, h]
    obtain ⟨ho, e⟩ | ⟨limit, ho, hlt, e⟩ := wordToOffset_cases s p
    · obtain ⟨hm, e'⟩ | ⟨limit, hm, hlt, e'⟩ := storeMem_cases s (U p) (f v)
      · exact .inl ⟨ho, hm, by simp only [e, e', respond_eq]⟩
      · exact .inr (.inr ⟨limit, ho, hm, hlt, by simp only [e, e']⟩)
    · exact .inr (.inl ⟨limit, ho, hlt, by simp only [e]⟩)

/-- R130, R134, R135: every case of a store at a payload offset. -/
theorem storePort_cases (v : Bytes) (p : Nat) (s : State) :
    ((∀ limit ∈ s.params.memLimit, p + v.length ≤ limit) ∧
      storePort v p s = .next ((s.withMem (s.mem.write p v)).answered (.ok .none) none)) ∨
    (∃ limit, s.params.memLimit = some limit ∧ limit < p + v.length ∧
      storePort v p s = .refused (.memLimit (p + v.length))) := by
  unfold storePort
  obtain ⟨hm, e⟩ | ⟨limit, hm, hlt, e⟩ := storeMem_cases s p v
  · exact .inl ⟨hm, by simp only [e, respond_eq]⟩
  · exact .inr ⟨limit, hm, hlt, by simp only [e]⟩

/-! ## The stack families -/

/-- R202, R311: PUSHN answers one of two errors, the code bound first, or pushes its immediate and moves `pc`. -/
theorem pushN_cases (n : Nat) (s : State) :
    (s.code.length < s.pc + n + 1 ∧ pushN n s = .next (s.answered (.error .pushSizeExceedsCodeSize) none)) ∨
    (s.pc + n + 1 ≤ s.code.length ∧ s.size = Config.stackCap ∧
      pushN n s = .next (s.answered (.error .stackOverflow) none)) ∨
    (s.pc + n + 1 ≤ s.code.length ∧ s.size ≠ Config.stackCap ∧
      pushN n s = .next (((s.withStack (wordOfBytes (operandBytes s n) :: s.stack)).withPc (s.pc + n + 1)).answered
        (.ok .none) none)) := by
  unfold pushN
  by_cases hc : s.pc + n + 1 > s.code.length
  · exact .inl ⟨hc, by rw [if_pos hc, raise_eq]⟩
  · rw [if_neg hc]
    by_cases hs : s.size = Config.stackCap
    · exact .inr (.inl ⟨by omega, hs, by simp only [push_of_full hs, raise_eq]⟩)
    · exact .inr (.inr ⟨by omega, hs, by simp only [push_of_room hs, respond_eq]⟩)

/-- R240: DUPN answers one of three errors or pushes a copy. -/
theorem dupN_cases (n : Nat) (hn : 1 ≤ n) (s : State) :
    (s.size = 0 ∧ dupN n s = .next (s.answered (.error .emptyStack) none)) ∨
    (s.size ≠ 0 ∧ s.size < n ∧ dupN n s = .next (s.answered (.error .indexOutOfRange) none)) ∨
    (n ≤ s.size ∧ s.size = Config.stackCap ∧ dupN n s = .next (s.answered (.error .stackOverflow) none)) ∨
    (∃ v, n ≤ s.size ∧ s.size ≠ Config.stackCap ∧ s.stack[n - 1]? = some v ∧
      dupN n s = .next ((s.withStack (v :: s.stack)).answered (.ok .none) none)) := by
  unfold dupN
  obtain ⟨h, e⟩ | ⟨h, h', e⟩ | ⟨v, h, h', e⟩ := peek_cases n hn s <;> simp only [e]
  · exact .inl ⟨h, rfl⟩
  · exact .inr (.inl ⟨h, h', rfl⟩)
  · by_cases hs : s.size = Config.stackCap
    · exact .inr (.inr (.inl ⟨h, hs, by rw [push_of_full hs]; rfl⟩))
    · exact .inr (.inr (.inr ⟨v, h, hs, h', by rw [push_of_room hs]; rfl⟩))

/-- R260: SWAPN answers one of two errors or exchanges two Words. -/
theorem swapN_cases (n : Nat) (hn : 1 ≤ n) (s : State) :
    (s.size = 0 ∧ swapN n s = .next (s.answered (.error .emptyStack) none)) ∨
    (s.size ≠ 0 ∧ s.size < n + 1 ∧ swapN n s = .next (s.answered (.error .indexOutOfRange) none)) ∨
    (∃ t v l, n + 1 ≤ s.size ∧ s.stack = t :: l ∧ l[n - 1]? = some v ∧
      swapN n s = .next ((s.withStack (v :: l.set (n - 1) t)).answered (.ok .none) none)) := by
  unfold swapN
  obtain ⟨h, e⟩ | ⟨h, h', e⟩ | ⟨t, v, l, h, h', hv, e⟩ := swap_cases (n + 1) (by omega) s <;> simp only [e, complete]
  · exact .inl ⟨h, rfl⟩
  · exact .inr (.inl ⟨h, h', rfl⟩)
  · exact .inr (.inr ⟨t, v, l, h, h', hv, rfl⟩)

end Sys2Proof.Machine
end

