-- ==== Sys2Proof/Laws/Exec.lean ====
section
/-! SUPPORT. What a command can do, said once: the cases of the meanings with a body of their own, and `exec_effect`,
the six ways a command leaves the state. -/

namespace Sys2Proof.Machine

variable {s t : State}

theorem execMload_cases (s : State) :
    (s.size < 1 ∧ execMload s = .next (s.answered (.error .stackUnderflow) none)) ∨
    (∃ p l, s.stack = p :: l ∧
      ((s.offsetOk p ∧ execMload s =
        .next ((s.withStack (wordOfBytes (s.mem.read (U p) 32) :: l)).answered (.ok .none) none)) ∨
      (∃ limit, s.params.offsetLimit = some limit ∧ limit < U p ∧ execMload s = .refused (.offsetLimit (U p))))) := by
  cases h : s.stack with
  | nil => exact .inl ⟨by simp [State.size_eq, h], by simp [execMload, h, raise_eq]⟩
  | cons p l =>
    refine .inr ⟨p, l, rfl, ?_⟩
    simp only [execMload, h]
    obtain ⟨ho, e⟩ | ⟨limit, ho, hlt, e⟩ := wordToOffset_cases s p
    · exact .inl ⟨ho, by simp only [e, respond_eq]⟩
    · exact .inr ⟨limit, ho, hlt, by simp only [e]⟩

theorem execKeccak256_cases (s : State) :
    (s.size < 2 ∧ execKeccak256 s = .next (s.answered (.error .stackUnderflow) none)) ∨
    (∃ p n l, s.stack = p :: n :: l ∧
      ((s.offsetOk p ∧ s.offsetOk n ∧ execKeccak256 s =
        .next ((s.withStack (wordOfBytes (Config.keccak256 (s.mem.read (U p) (U n))).toList :: l)).answered (.ok .none)
          (some (s.mem.read (U p) (U n))))) ∨
      (∃ limit, s.params.offsetLimit = some limit ∧ limit < U p ∧ execKeccak256 s = .refused (.offsetLimit (U p))) ∨
      (∃ limit, s.offsetOk p ∧ s.params.offsetLimit = some limit ∧ limit < U n ∧
        execKeccak256 s = .refused (.offsetLimit (U n))))) := by
  match h : s.stack with
  | [] => exact .inl ⟨by simp [State.size_eq, h], by simp [execKeccak256, h, raise_eq]⟩
  | [a] => exact .inl ⟨by simp [State.size_eq, h], by simp [execKeccak256, h, raise_eq]⟩
  | p :: n :: l =>
    refine .inr ⟨p, n, l, rfl, ?_⟩
    simp only [execKeccak256, h]
    obtain ⟨ho, e⟩ | ⟨limit, ho, hlt, e⟩ := wordToOffset_cases s p
    · obtain ⟨ho', e'⟩ | ⟨limit, ho', hlt, e'⟩ := wordToOffset_cases s n
      · exact .inl ⟨ho, ho', by simp only [e, e']⟩
      · exact .inr (.inr ⟨limit, ho, ho', hlt, by simp only [e, e']⟩)
    · exact .inr (.inl ⟨limit, ho, hlt, by simp only [e]⟩)

theorem execPop_cases (s : State) :
    (s.size = 0 ∧ execPop s = .next (s.answered (.error .stackUnderflow) none)) ∨
    (∃ v l, s.stack = v :: l ∧ execPop s = .next ((s.withStack l).answered (.ok .none) none)) := by
  cases h : s.stack with
  | nil => exact .inl ⟨by simp [State.size_eq, h], by simp [execPop, pop_of_nil h, raise_eq]⟩
  | cons v l => exact .inr ⟨v, l, rfl, by simp [execPop, pop_of_cons h, respond_eq]⟩

theorem execStkPop_cases (s : State) :
    (s.size = 0 ∧ execStkPop s = .next (s.answered (.error .stackUnderflow) none)) ∨
    (∃ v l, s.stack = v :: l ∧ execStkPop s = .next ((s.withStack l).answered (.ok (.word v)) none)) := by
  cases h : s.stack with
  | nil => exact .inl ⟨by simp [State.size_eq, h], by simp [execStkPop, pop_of_nil h, raise_eq]⟩
  | cons v l => exact .inr ⟨v, l, rfl, by simp [execStkPop, pop_of_cons h, respond_eq]⟩

theorem execPush0_cases (s : State) :
    (s.size = Config.stackCap ∧ execPush0 s = .next (s.answered (.error .stackOverflow) none)) ∨
    (s.size ≠ Config.stackCap ∧ execPush0 s = .next (((s.withStack (W 0 :: s.stack)).withPc
      (s.pc + s.params.push0PcStep.val)).answered (.ok .none) none)) := by
  by_cases h : s.size = Config.stackCap
  · exact .inl ⟨h, by simp only [execPush0, push_of_full h, raise_eq]⟩
  · exact .inr ⟨h, by simp only [execPush0, push_of_room h, respond_eq]⟩

theorem execStkPush_cases (v : Word) (s : State) :
    (s.size = Config.stackCap ∧ execStkPush v s = .next (s.answered (.error .stackOverflow) none)) ∨
    (s.size ≠ Config.stackCap ∧
      execStkPush v s = .next ((s.withStack (v :: s.stack)).answered (.ok .none) none)) := by
  by_cases h : s.size = Config.stackCap
  · exact .inl ⟨h, by simp only [execStkPush, push_of_full h, complete, raise_eq]⟩
  · exact .inr ⟨h, by simp only [execStkPush, push_of_room h, complete, respond_eq]⟩

theorem execStkPeek_cases (d : Int) (s : State) :
    (s.size = 0 ∧ execStkPeek d s = .next (s.answered (.error .emptyStack) none)) ∨
    (s.size ≠ 0 ∧ d < 1 ∧ execStkPeek d s = .refused (.peekDepth d)) ∨
    (s.size ≠ 0 ∧ (s.size : Int) < d ∧ execStkPeek d s = .next (s.answered (.error .indexOutOfRange) none)) ∨
    (∃ v, 1 ≤ d ∧ d ≤ s.size ∧ s.stack[d.toNat - 1]? = some v ∧
      execStkPeek d s = .next (s.answered (.ok (.word v)) none)) := by
  unfold execStkPeek
  by_cases h0 : s.size = 0
  · exact .inl ⟨h0, by rw [if_neg (by simp [h0])]; simp only [peek_of_empty h0, raise_eq]⟩
  · by_cases hd : d < 1
    · exact .inr (.inl ⟨h0, hd, if_pos ⟨h0, hd⟩⟩)
    · rw [if_neg (by tauto)]
      obtain ⟨h, -⟩ | ⟨-, h, e⟩ | ⟨v, h, hv, e⟩ := peek_cases d.toNat (by omega) s
      · exact absurd h h0
      · exact .inr (.inr (.inl ⟨h0, by omega, by simp only [e, raise_eq]⟩))
      · exact .inr (.inr (.inr ⟨v, by omega, by omega, hv, by simp only [e, respond_eq]⟩))

theorem execStkSwap_cases (d : Int) (s : State) :
    (s.size = 0 ∧ execStkSwap d s = .next (s.answered (.error .emptyStack) none)) ∨
    (s.size ≠ 0 ∧ d < 2 ∧ execStkSwap d s = .refused (.swapDepth d)) ∨
    (s.size ≠ 0 ∧ (s.size : Int) < d ∧ execStkSwap d s = .next (s.answered (.error .indexOutOfRange) none)) ∨
    (∃ t v l, 2 ≤ d ∧ d ≤ s.size ∧ s.stack = t :: l ∧ l[d.toNat - 2]? = some v ∧
      execStkSwap d s = .next ((s.withStack (v :: l.set (d.toNat - 2) t)).answered (.ok .none) none)) := by
  unfold execStkSwap
  by_cases h0 : s.size = 0
  · exact .inl ⟨h0, by rw [if_neg (by simp [h0])]; simp only [swap_of_empty h0, complete, raise_eq]⟩
  · by_cases hd : d < 2
    · exact .inr (.inl ⟨h0, hd, if_pos ⟨h0, hd⟩⟩)
    · rw [if_neg (by tauto)]
      obtain ⟨h, -⟩ | ⟨-, h, e⟩ | ⟨t, v, l, h, hs, hv, e⟩ := swap_cases d.toNat (by omega) s
      · exact absurd h h0
      · exact .inr (.inr (.inl ⟨h0, by omega, by simp only [e, complete, raise_eq]⟩))
      · exact .inr (.inr (.inr ⟨t, v, l, by omega, by omega, hs, hv, by simp only [e, complete, respond_eq]⟩))

/-- R140: a store, or the refusal of a key outside KeyT. -/
theorem execStoStore_cases (k : Int) (v : Bytes) (s : State) :
    (s.keyOk k ∧ execStoStore k v s = .next ((s.withSto (s.sto.write k v)).answered (.ok .none) none)) ∨
    (¬ s.keyOk k ∧ execStoStore k v s = .refused (.keyRange k)) := by
  by_cases h : s.keyOk k
  · exact .inl ⟨h, if_pos h⟩
  · exact .inr ⟨h, if_neg h⟩

/-- R141: a load, or the refusal of a key outside KeyT. -/
theorem execStoLoad_cases (k : Int) (s : State) :
    (s.keyOk k ∧ execStoLoad k s = .next (s.answered (.ok (.val (s.sto.read k))) none)) ∨
    (¬ s.keyOk k ∧ execStoLoad k s = .refused (.keyRange k)) := by
  by_cases h : s.keyOk k
  · exact .inl ⟨h, if_pos h⟩
  · exact .inr ⟨h, if_neg h⟩

/-! ## The six effects -/

/-- R306: the kinds no command raises. -/
def ErrorKind.unreachable : ErrorKind → Bool
  | .invalidPushSize | .invalidDupSize | .invalidSwapSize => true
  | .stackOverflow | .stackUnderflow | .emptyStack | .indexOutOfRange | .pushSizeExceedsCodeSize => false

/-- How a command `i` may leave the state `s`: an error and nothing else; another Stack; a push that moves `pc`; a
store in Memory; a store in Storage. -/
inductive Effect (i : Instr) (s : State) : State → Prop where
  | error (e : ErrorKind) (he : e.unreachable = false) : Effect i s (s.answered (.error e) none)
  | stack (l : List Word) (r : Result) (h : Option Bytes) (hl : l.length ≤ s.size ∨ (s.size ≠ Config.stackCap ∧
      l.length = s.size + 1)) (hh : h ≠ none → i = .keccak256) : Effect i s ((s.withStack l).answered (.ok r) h)
  | immediate (n : Nat) (v : Word) (hi : i.immediateSize = some n) (hs : s.size ≠ Config.stackCap)
      (hn : s.pc + n + 1 ≤ s.code.length) :
      Effect i s (((s.withStack (v :: s.stack)).withPc (s.pc + n + 1)).answered (.ok .none) none)
  | zero (hi : i = .push0) (hs : s.size ≠ Config.stackCap) :
      Effect i s (((s.withStack (W 0 :: s.stack)).withPc (s.pc + s.params.push0PcStep.val)).answered (.ok .none) none)
  | memory (a : Nat) (v : Bytes) (l : List Word) (hi : i.storesMemory = true) (hm : s.memOk (a + v.length))
      (hl : l.length ≤ s.size) :
      Effect i s (((s.withMem (s.mem.write a v)).withStack l).answered (.ok .none) none)
  | storage (k : Int) (v : Bytes) (hi : i = .stoStore k v) :
      Effect i s ((s.withSto (Storage.write s.sto k v)).answered (.ok .none) none)

variable {i : Instr}

/-- A command that leaves the Stack as it is and answers a result. -/
theorem Effect.answer (r : Result) : Effect i s (s.answered (.ok r) none) :=
  .stack s.stack r none (.inl le_rfl) (by simp)

theorem unaryOp_effect {f : Word → Word} (h : unaryOp f s = .next t) : Effect i s t := by
  obtain ⟨-, e⟩ | ⟨a, l, hs, e⟩ := unaryOp_cases f s <;> rw [e] at h <;> cases h
  · exact .error _ rfl
  · exact .stack _ _ _ (.inl (by simp [State.size_eq, hs])) (by simp)

theorem binaryXY_effect {f : Word → Word → Word} (h : binaryXY f s = .next t) : Effect i s t := by
  obtain ⟨-, e⟩ | ⟨a, b, l, hs, e⟩ := binaryXY_cases f s <;> rw [e] at h <;> cases h
  · exact .error _ rfl
  · exact .stack _ _ _ (.inl (by simp [State.size_eq, hs])) (by simp)

theorem binaryTop_effect {f : Word → Word → Word} (h : binaryTop f s = .next t) : Effect i s t := by
  obtain ⟨-, e⟩ | ⟨a, b, l, hs, e⟩ := binaryTop_cases f s <;> rw [e] at h <;> cases h
  · exact .error _ rfl
  · exact .stack _ _ _ (.inl (by simp [State.size_eq, hs])) (by simp)

theorem ternaryTop_effect {f : Word → Word → Word → Word} (h : ternaryTop f s = .next t) : Effect i s t := by
  obtain ⟨-, e⟩ | ⟨a, b, c, l, hs, e⟩ := ternaryTop_cases f s <;> rw [e] at h <;> cases h
  · exact .error _ rfl
  · exact .stack _ _ _ (.inl (by simp [State.size_eq, hs])) (by simp)

theorem storeOp_effect {f : Word → Bytes} (hi : i.storesMemory = true) (h : storeOp f s = .next t) :
    Effect i s t := by
  obtain ⟨-, e⟩ | ⟨p, v, l, hs, ⟨-, hm, e⟩ | ⟨_, -, -, e⟩ | ⟨_, -, -, -, e⟩⟩ := storeOp_cases f s <;> rw [e] at h <;>
    cases h
  · exact .error _ rfl
  · exact .memory _ _ _ hi hm (by simp [State.size_eq, hs]; omega)

theorem storePort_effect {v : Bytes} {p : Nat} (hi : i.storesMemory = true) (h : storePort v p s = .next t) :
    Effect i s t := by
  obtain ⟨hm, e⟩ | ⟨_, -, -, e⟩ := storePort_cases v p s <;> rw [e] at h <;> cases h
  exact .memory p v s.stack hi hm le_rfl

theorem pushN_effect {n : Nat} (hi : i.immediateSize = some n) (h : pushN n s = .next t) : Effect i s t := by
  obtain ⟨-, e⟩ | ⟨-, -, e⟩ | ⟨hn, hs, e⟩ := pushN_cases n s <;> rw [e] at h <;> cases h
  · exact .error _ rfl
  · exact .error _ rfl
  · exact .immediate n _ hi hs hn

theorem dupN_effect {n : Nat} (hn : 1 ≤ n) (h : dupN n s = .next t) : Effect i s t := by
  obtain ⟨-, e⟩ | ⟨-, -, e⟩ | ⟨-, -, e⟩ | ⟨v, -, hs, -, e⟩ := dupN_cases n hn s <;> rw [e] at h <;> cases h
  · exact .error _ rfl
  · exact .error _ rfl
  · exact .error _ rfl
  · exact .stack _ _ _ (.inr ⟨hs, by simp [State.size_eq]⟩) (by simp)

theorem swapN_effect {n : Nat} (hn : 1 ≤ n) (h : swapN n s = .next t) : Effect i s t := by
  obtain ⟨-, e⟩ | ⟨-, -, e⟩ | ⟨_, v, l, -, hs, -, e⟩ := swapN_cases n hn s <;> rw [e] at h <;> cases h
  · exact .error _ rfl
  · exact .error _ rfl
  · exact .stack _ _ _ (.inl (by simp [State.size_eq, hs])) (by simp)

theorem execMload_effect (h : execMload s = .next t) : Effect i s t := by
  obtain ⟨-, e⟩ | ⟨p, l, hs, ⟨-, e⟩ | ⟨_, -, -, e⟩⟩ := execMload_cases s <;> rw [e] at h <;> cases h
  · exact .error _ rfl
  · exact .stack _ _ _ (.inl (by simp [State.size_eq, hs])) (by simp)

theorem execKeccak256_effect (h : execKeccak256 s = .next t) : Effect .keccak256 s t := by
  obtain ⟨-, e⟩ | ⟨p, n, l, hs, ⟨-, -, e⟩ | ⟨_, -, -, e⟩ | ⟨_, -, -, -, e⟩⟩ := execKeccak256_cases s <;> rw [e] at h <;> cases h
  · exact .error _ rfl
  · exact .stack _ _ _ (.inl (by simp [State.size_eq, hs])) (fun _ => rfl)

theorem execPop_effect (h : execPop s = .next t) : Effect i s t := by
  obtain ⟨-, e⟩ | ⟨v, l, hs, e⟩ := execPop_cases s <;> rw [e] at h <;> cases h
  · exact .error _ rfl
  · exact .stack _ _ _ (.inl (by simp [State.size_eq, hs])) (by simp)

theorem execStkPop_effect (h : execStkPop s = .next t) : Effect i s t := by
  obtain ⟨-, e⟩ | ⟨v, l, hs, e⟩ := execStkPop_cases s <;> rw [e] at h <;> cases h
  · exact .error _ rfl
  · exact .stack _ _ _ (.inl (by simp [State.size_eq, hs])) (by simp)

theorem execPush0_effect (h : execPush0 s = .next t) : Effect .push0 s t := by
  obtain ⟨-, e⟩ | ⟨hs, e⟩ := execPush0_cases s <;> rw [e] at h <;> cases h
  · exact .error _ rfl
  · exact .zero rfl hs

theorem execStkPush_effect {v : Word} (h : execStkPush v s = .next t) : Effect i s t := by
  obtain ⟨-, e⟩ | ⟨hs, e⟩ := execStkPush_cases v s <;> rw [e] at h <;> cases h
  · exact .error _ rfl
  · exact .stack _ _ _ (.inr ⟨hs, by simp [State.size_eq]⟩) (by simp)

theorem execStkPeek_effect {d : Int} (h : execStkPeek d s = .next t) : Effect i s t := by
  obtain ⟨-, e⟩ | ⟨-, -, e⟩ | ⟨-, -, e⟩ | ⟨v, -, -, -, e⟩ := execStkPeek_cases d s <;> rw [e] at h <;> cases h
  · exact .error _ rfl
  · exact .error _ rfl
  · exact .answer _

theorem execStkSwap_effect {d : Int} (h : execStkSwap d s = .next t) : Effect i s t := by
  obtain ⟨-, e⟩ | ⟨-, -, e⟩ | ⟨-, -, e⟩ | ⟨_, v, l, -, -, hs, -, e⟩ := execStkSwap_cases d s <;> rw [e] at h <;>
    cases h
  · exact .error _ rfl
  · exact .error _ rfl
  · exact .stack _ _ _ (.inl (by simp [State.size_eq, hs])) (by simp)

theorem execStoStore_effect {k : Int} {v : Bytes} (h : execStoStore k v s = .next t) : Effect (.stoStore k v) s t := by
  obtain ⟨-, e⟩ | ⟨-, e⟩ := execStoStore_cases k v s <;> rw [e] at h <;> cases h
  exact .storage k v rfl

theorem execStoLoad_effect {k : Int} (h : execStoLoad k s = .next t) : Effect i s t := by
  obtain ⟨-, e⟩ | ⟨-, e⟩ := execStoLoad_cases k s <;> rw [e] at h <;> cases h
  exact .answer _

theorem respond_effect {r : Result} (h : respond r s = .next t) : Effect i s t := by
  cases h; exact .answer r

/-- What a command can do, for every command. -/
theorem exec_effect (h : exec i s = .next t) : Effect i s t := by
  cases i
  case keccak256 => exact execKeccak256_effect h
  case push0 => exact execPush0_effect h
  case mload => exact execMload_effect h
  case pop => exact execPop_effect h
  case stkPush => exact execStkPush_effect h
  case stkPop => exact execStkPop_effect h
  case stkPeek => exact execStkPeek_effect h
  case stkSwap => exact execStkSwap_effect h
  case stkSize | memLoad | memLoadB | memLoadW => exact respond_effect h
  case stoStore => exact execStoStore_effect h
  case stoLoad => exact execStoLoad_effect h
  case mstore | mstore8 => exact storeOp_effect rfl h
  case memStore | memStoreB | memStoreW => exact storePort_effect rfl h
  case iszero | not => exact unaryOp_effect h
  case addmod | mulmod => exact ternaryTop_effect h
  case signextend | byte | shl | shr | sar => exact binaryTop_effect h
  case add | mul | sub | div | sdiv | mod | smod | exp | lt | gt | slt | sgt | eq | and | or | xor =>
    exact binaryXY_effect h
  all_goals first
    | exact pushN_effect rfl h
    | exact dupN_effect (by decide) h
    | exact swapN_effect (by decide) h

end Sys2Proof.Machine
end

