-- ==== Sys2Proof/Laws/PerInstr.lean ====
section
/-! SUPPORT. Statements made per instruction, one lemma per constructor. -/

namespace Sys2Proof.Laws.ClassBit

/-- R90, R91, R92: bit 8 of the select is 1 for a component-port command and 0 for an opcode-engine command. -/
def Statement (i : Instr) : Prop := (encode i).sel.msb = i.isPort

theorem statement_of_sel {i : Instr} (h : i.sel.msb = i.isPort) : Statement i := by rw [Statement, encode_sel, h]

theorem add : Statement .add := rfl
theorem mul : Statement .mul := rfl
theorem sub : Statement .sub := rfl
theorem div : Statement .div := rfl
theorem sdiv : Statement .sdiv := rfl
theorem mod : Statement .mod := rfl
theorem smod : Statement .smod := rfl
theorem addmod : Statement .addmod := rfl
theorem mulmod : Statement .mulmod := rfl
theorem exp : Statement .exp := rfl
theorem signextend : Statement .signextend := rfl
theorem lt : Statement .lt := rfl
theorem gt : Statement .gt := rfl
theorem slt : Statement .slt := rfl
theorem sgt : Statement .sgt := rfl
theorem eq : Statement .eq := rfl
theorem iszero : Statement .iszero := rfl
theorem and : Statement .and := rfl
theorem or : Statement .or := rfl
theorem xor : Statement .xor := rfl
theorem not : Statement .not := rfl
theorem byte : Statement .byte := rfl
theorem shl : Statement .shl := rfl
theorem shr : Statement .shr := rfl
theorem sar : Statement .sar := rfl
theorem keccak256 : Statement .keccak256 := rfl
theorem pop : Statement .pop := rfl
theorem mload : Statement .mload := rfl
theorem mstore : Statement .mstore := rfl
theorem mstore8 : Statement .mstore8 := rfl
theorem push0 : Statement .push0 := rfl
theorem push1 : Statement .push1 := rfl
theorem push2 : Statement .push2 := rfl
theorem push3 : Statement .push3 := rfl
theorem push4 : Statement .push4 := rfl
theorem push5 : Statement .push5 := rfl
theorem push6 : Statement .push6 := rfl
theorem push7 : Statement .push7 := rfl
theorem push8 : Statement .push8 := rfl
theorem push9 : Statement .push9 := rfl
theorem push10 : Statement .push10 := rfl
theorem push11 : Statement .push11 := rfl
theorem push12 : Statement .push12 := rfl
theorem push13 : Statement .push13 := rfl
theorem push14 : Statement .push14 := rfl
theorem push15 : Statement .push15 := rfl
theorem push16 : Statement .push16 := rfl
theorem push17 : Statement .push17 := rfl
theorem push18 : Statement .push18 := rfl
theorem push19 : Statement .push19 := rfl
theorem push20 : Statement .push20 := rfl
theorem push21 : Statement .push21 := rfl
theorem push22 : Statement .push22 := rfl
theorem push23 : Statement .push23 := rfl
theorem push24 : Statement .push24 := rfl
theorem push25 : Statement .push25 := rfl
theorem push26 : Statement .push26 := rfl
theorem push27 : Statement .push27 := rfl
theorem push28 : Statement .push28 := rfl
theorem push29 : Statement .push29 := rfl
theorem push30 : Statement .push30 := rfl
theorem push31 : Statement .push31 := rfl
theorem push32 : Statement .push32 := rfl
theorem dup1 : Statement .dup1 := rfl
theorem dup2 : Statement .dup2 := rfl
theorem dup3 : Statement .dup3 := rfl
theorem dup4 : Statement .dup4 := rfl
theorem dup5 : Statement .dup5 := rfl
theorem dup6 : Statement .dup6 := rfl
theorem dup7 : Statement .dup7 := rfl
theorem dup8 : Statement .dup8 := rfl
theorem dup9 : Statement .dup9 := rfl
theorem dup10 : Statement .dup10 := rfl
theorem dup11 : Statement .dup11 := rfl
theorem dup12 : Statement .dup12 := rfl
theorem dup13 : Statement .dup13 := rfl
theorem dup14 : Statement .dup14 := rfl
theorem dup15 : Statement .dup15 := rfl
theorem dup16 : Statement .dup16 := rfl
theorem swap1 : Statement .swap1 := rfl
theorem swap2 : Statement .swap2 := rfl
theorem swap3 : Statement .swap3 := rfl
theorem swap4 : Statement .swap4 := rfl
theorem swap5 : Statement .swap5 := rfl
theorem swap6 : Statement .swap6 := rfl
theorem swap7 : Statement .swap7 := rfl
theorem swap8 : Statement .swap8 := rfl
theorem swap9 : Statement .swap9 := rfl
theorem swap10 : Statement .swap10 := rfl
theorem swap11 : Statement .swap11 := rfl
theorem swap12 : Statement .swap12 := rfl
theorem swap13 : Statement .swap13 := rfl
theorem swap14 : Statement .swap14 := rfl
theorem swap15 : Statement .swap15 := rfl
theorem swap16 : Statement .swap16 := rfl
theorem stkPush (a0 : Word) : Statement (.stkPush a0) := statement_of_sel (by decide : BitVec.msb (0x100 : BitVec 9) = true)
theorem stkPop : Statement .stkPop := rfl
theorem stkPeek (a0 : Int) : Statement (.stkPeek a0) := statement_of_sel (by decide : BitVec.msb (0x102 : BitVec 9) = true)
theorem stkSwap (a0 : Int) : Statement (.stkSwap a0) := statement_of_sel (by decide : BitVec.msb (0x103 : BitVec 9) = true)
theorem stkSize : Statement .stkSize := rfl
theorem memStore (a0 : Bytes) (a1 : Nat) : Statement (.memStore a0 a1) := statement_of_sel (by decide : BitVec.msb (0x110 : BitVec 9) = true)
theorem memLoad (a0 : Nat) (a1 : Nat) : Statement (.memLoad a0 a1) := statement_of_sel (by decide : BitVec.msb (0x111 : BitVec 9) = true)
theorem memLoadB (a0 : Nat) : Statement (.memLoadB a0) := statement_of_sel (by decide : BitVec.msb (0x112 : BitVec 9) = true)
theorem memLoadW (a0 : Nat) : Statement (.memLoadW a0) := statement_of_sel (by decide : BitVec.msb (0x113 : BitVec 9) = true)
theorem memStoreB (a0 : Byte) (a1 : Nat) : Statement (.memStoreB a0 a1) := statement_of_sel (by decide : BitVec.msb (0x114 : BitVec 9) = true)
theorem memStoreW (a0 : Word) (a1 : Nat) : Statement (.memStoreW a0 a1) := statement_of_sel (by decide : BitVec.msb (0x115 : BitVec 9) = true)
theorem stoStore (a0 : Int) (a1 : Bytes) : Statement (.stoStore a0 a1) := statement_of_sel (by decide : BitVec.msb (0x120 : BitVec 9) = true)
theorem stoLoad (a0 : Int) : Statement (.stoLoad a0) := statement_of_sel (by decide : BitVec.msb (0x121 : BitVec 9) = true)

end Sys2Proof.Laws.ClassBit
end

