-- ==== Sys2Proof/Laws/Step.lean ====
section
/-! SUPPORT. The cases of a step, and that a step that answers is idle or has one of the effects of a command. -/

namespace Sys2Proof.Machine

variable {s t : State}

/-- R46, R325, R98: idle, refused by the decoder, or the command performed on the state with it taken off the port. -/
theorem step_cases (s : State) :
    (s.cmdPort = [] ∧ step s = .next s) ∨
    (∃ c l e, s.cmdPort = c :: l ∧ decode c = .error e ∧ step s = .refused (refusalOf e)) ∨
    (∃ c l i, s.cmdPort = c :: l ∧ decode c = .ok i ∧ step s = exec i (s.withCmds l)) := by
  unfold step fetch
  cases h : s.cmdPort with
  | nil => exact .inl ⟨rfl, rfl⟩
  | cons c l =>
    cases hd : decode c with
    | error e => exact .inr (.inl ⟨c, l, e, rfl, hd, by simp only [hd]⟩)
    | ok i => exact .inr (.inr ⟨c, l, i, rfl, hd, by simp only [hd]⟩)

/-- A step that answers is idle, or has an effect of the well-formed command it took. -/
theorem step_effect (h : step s = .next t) :
    t = s ∨ ∃ c l i, s.cmdPort = c :: l ∧ decode c = .ok i ∧ i.wellFormed = true ∧ Effect i (s.withCmds l) t := by
  obtain ⟨-, e⟩ | ⟨_, _, _, -, -, e⟩ | ⟨c, l, i, hc, hd, e⟩ := step_cases s <;> rw [e] at h
  · cases h; exact .inl rfl
  · cases h
  · obtain ⟨_, -, -, hw⟩ := decode_ok hd
    exact .inr ⟨c, l, i, hc, hd, hw, exec_effect h⟩

end Sys2Proof.Machine
end

