-- ==== Sys2Proof/Tests/Slice0.lean ====
section
/-! SUPPORT. The model's own tests. Expected values come from the opcode table, the rules and the vectors of
spec/95_test_vectors.md (named V...). Then, for each statement with hypotheses, a state and operands that meet them. -/

namespace Sys2Proof.Tests

open Sys2Proof.Machine

set_option Elab.async false

/-! ## Helpers -/

/-- Reset with a Stack, written top first. -/
def st (l : List Word) : State := { State.reset with stack := l }

/-- The same with BINOP_ORDER = YTop. -/
def stY (l : List Word) : State := { State.reset with stack := l, params := { binopOrder := .yTop } }

/-- Reset with some code. -/
def withCode (code : Bytes) (pc : Nat) (l : List Word) : State := { State.reset with stack := l, code, pc }

/-- Reset with an OFFSET_LIMIT and a Stack. -/
def limited (limit : Nat) (l : List Word) : State := { st l with params := { offsetLimit := some limit } }

/-- Reset with a MEM_LIMIT and a Stack. -/
def bounded (limit : Nat) (l : List Word) : State := { st l with params := { memLimit := some limit } }

/-- Reset with KeyT the numbers of 8 bits. -/
def bytesAsKeys : State := { st [] with params := { keyMin := some 0, keyMax := some 255 } }

/-- Reset with some Storage, no snapshot. -/
def withSto (cells : List (Int × Bytes)) : State := { st [] with sto := { base := none, cells } }

/-- A snapshot value: 32 bytes, the last of them given. -/
def val (b : Byte) : Vector Byte 32 := (Vector.replicate 32 0).set 31 b

/-- A full Stack. -/
def full : List Word := List.replicate 1024 7

/-- Memory with some bytes from address 0. -/
def memOf (b : Bytes) : Memory := Memory.write { cells := [], mlen := 0 } 0 b

/-- The next state, if there is one. -/
def next? : Out → Option State
  | .next t => some t
  | .fault _ => none
  | .refused _ => none

/-- The refusal, if there is one. -/
def refusal? : Out → Option Refusal
  | .next _ => none
  | .fault _ => none
  | .refused r => some r

/-- The command answers OK and leaves that Stack. -/
def gives (i : Instr) (s : State) (l : List Word) : Bool :=
  match next? (exec i s) with
  | some t => t.stack = l ∧ t.rspPort = some (.ok .none)
  | none => false

/-- The command answers that error and changes no state variable (R300). -/
def errs (i : Instr) (s : State) (e : ErrorKind) : Bool :=
  next? (exec i s) = some { s with rspPort := some (.error e), hashPort := none }

/-- The command answers that result. -/
def answers (i : Instr) (s : State) (r : Result) : Bool :=
  match next? (exec i s) with
  | some t => t.rspPort = some (.ok r)
  | none => false

/-- What the Memory holds after the command, from address 0. -/
def memAfter (i : Instr) (s : State) : Option Bytes := (next? (exec i s)).map fun t => t.mem.read 0 t.mem.mlen

/-- The listed keys of Storage after the command. -/
def stoAfter (i : Instr) (s : State) : Option (List (Int × Bytes)) := (next? (exec i s)).map fun t => t.sto.cells

/-- Each word of the table decodes to its command. -/
def decodesTo (l : List (Nat × Instr)) : Bool := l.all fun p => decodeTableWord 16 p.1 = some p.2

/-! ## Decoding: the word of every row of the opcode table, bit by bit -/

/-- The encodings of 43_arithmetic.md R151 to R161. -/
theorem test_decode_arithmetic : decodesTo [
    (0b000000001, .add), (0b000000010, .mul), (0b000000011, .sub), (0b000000100, .div), (0b000000101, .sdiv),
    (0b000000110, .mod), (0b000000111, .smod), (0b000001000, .addmod), (0b000001001, .mulmod),
    (0b000001010, .exp), (0b000001011, .signextend) ] = true := by
  decide

/-- The encodings of 44_comparison_bitwise.md R171 to R184. -/
theorem test_decode_comparison : decodesTo [
    (0b000010000, .lt), (0b000010001, .gt), (0b000010010, .slt), (0b000010011, .sgt), (0b000010100, .eq),
    (0b000010101, .iszero), (0b000010110, .and), (0b000010111, .or), (0b000011000, .xor), (0b000011001, .not),
    (0b000011010, .byte), (0b000011011, .shl), (0b000011100, .shr), (0b000011101, .sar) ] = true := by
  decide

/-- The encodings of 45_hashing.md, 46_memory_ops.md, 47_stack_ops.md. -/
theorem test_decode_hash_memory_pop_push0 : decodesTo [
    (0b000100000, .keccak256), (0b001010000, .pop), (0b001010001, .mload), (0b001010010, .mstore),
    (0b001010011, .mstore8), (0b001011111, .push0) ] = true := by
  decide

/-- The encodings of 47_stack_ops.md R203 to R234. -/
theorem test_decode_push_1 : decodesTo [
    (0b001100000, .push1), (0b001100001, .push2), (0b001100010, .push3), (0b001100011, .push4),
    (0b001100100, .push5), (0b001100101, .push6), (0b001100110, .push7), (0b001100111, .push8),
    (0b001101000, .push9), (0b001101001, .push10), (0b001101010, .push11), (0b001101011, .push12),
    (0b001101100, .push13), (0b001101101, .push14), (0b001101110, .push15), (0b001101111, .push16) ] = true := by
  decide

/-- The encodings of 47_stack_ops.md R203 to R234. -/
theorem test_decode_push_2 : decodesTo [
    (0b001110000, .push17), (0b001110001, .push18), (0b001110010, .push19), (0b001110011, .push20),
    (0b001110100, .push21), (0b001110101, .push22), (0b001110110, .push23), (0b001110111, .push24),
    (0b001111000, .push25), (0b001111001, .push26), (0b001111010, .push27), (0b001111011, .push28),
    (0b001111100, .push29), (0b001111101, .push30), (0b001111110, .push31), (0b001111111, .push32) ] = true := by
  decide

/-- The encodings of 48_dup_swap.md R241 to R256. -/
theorem test_decode_dup : decodesTo [
    (0b010000000, .dup1), (0b010000001, .dup2), (0b010000010, .dup3), (0b010000011, .dup4),
    (0b010000100, .dup5), (0b010000101, .dup6), (0b010000110, .dup7), (0b010000111, .dup8),
    (0b010001000, .dup9), (0b010001001, .dup10), (0b010001010, .dup11), (0b010001011, .dup12),
    (0b010001100, .dup13), (0b010001101, .dup14), (0b010001110, .dup15), (0b010001111, .dup16) ] = true := by
  decide

/-- The encodings of 48_dup_swap.md R261 to R276. -/
theorem test_decode_swap : decodesTo [
    (0b010010000, .swap1), (0b010010001, .swap2), (0b010010010, .swap3), (0b010010011, .swap4),
    (0b010010100, .swap5), (0b010010101, .swap6), (0b010010110, .swap7), (0b010010111, .swap8),
    (0b010011000, .swap9), (0b010011001, .swap10), (0b010011010, .swap11), (0b010011011, .swap12),
    (0b010011100, .swap13), (0b010011101, .swap14), (0b010011110, .swap15), (0b010011111, .swap16) ] = true := by
  decide

/-- The encodings of 40_stack_component.md, 41_memory_component.md, 42_storage_component.md. -/
theorem test_decode_ports : decodesTo [
    (0b100000000, .stkPush 0), (0b100000001, .stkPop), (0b100000010, .stkPeek 0), (0b100000011, .stkSwap 0),
    (0b100000100, .stkSize), (0b100010000, .memStore [] 0), (0b100010001, .memLoad 0 0),
    (0b100010010, .memLoadB 0), (0b100010011, .memLoadW 0), (0b100010100, .memStoreB 0 0),
    (0b100010101, .memStoreW 0 0), (0b100100000, .stoStore 0 (zeros 32)), (0b100100001, .stoLoad 0) ] = true := by
  decide

/-- R90: a word with a bit above bit 8 is no select, and the word is read in its first `nbits` bits. -/
theorem test_decode_bits : decodeTableWord 16 0x201 = none ∧ decodeTableWord 9 0x201 = some .add := by decide

/-- VX1 to VX38, the invalid rows: the bounds of every reserved range of R98, and the class bit. -/
theorem test_decode_reserved : [0x000, 0x00C, 0x00F, 0x01E, 0x01F, 0x021, 0x04F, 0x054, 0x05E, 0x0A0, 0x0FF, 0x105,
    0x10F, 0x116, 0x11F, 0x122, 0x151, 0x1FF].all (fun w => decodeTableWord 16 w = none) = true := by decide

/-- R42: the encoder keeps every payload field a command uses. -/
theorem test_encode_fields : encode (.memLoad 3 4) = { Command.ofSel 0x111 with argOff := 3, argSize := 4 } ∧
    encode (.stkSwap (-2)) = { Command.ofSel 0x103 with argDepth := -2 } ∧
    encode (.memStoreB 0x7F 1) = { Command.ofSel 0x114 with argByte := 0x7F, argOff := 1 } := by decide

/-! ## Well-formedness: the one check there is, with a term it refuses -/

/-- R42: an `arg_val` of 31 bytes is ill-formed, one of 32 bytes well-formed. -/
theorem test_wellFormed_stoStore : (Instr.stoStore 1 (zeros 31)).wellFormed = false ∧
    (Instr.stoStore 1 (zeros 32)).wellFormed = true := by decide

/-- The decoder refuses the ill-formed transfer by name, and so does a step. -/
theorem test_ill_formed_refused :
    decode { Command.ofSel 0x120 with argVal := zeros 31 } = .error (.valueLength 31) ∧
    refusal? (step ((st []).present [{ Command.ofSel 0x120 with argVal := zeros 31 }])) = some (.valueLength 31) :=
  ⟨rfl, rfl⟩

/-! ## Reset and the step -/

/-- R50: construction with the defaults is State.reset. -/
theorem test_reset_is_construction : State.reset = State.construct {} [] none [] := by decide

/-- R41: a snapshot entry is what its key reads as; a later pair of a key wins, and a zero value is no entry. -/
theorem test_construct_snapshot :
    (State.construct {} [0x60] none [(5, val 1), (-2, val 9), (5, val 2), (8, val 0)]).sto =
      { base := none, cells := [(-2, be32 9), (5, be32 2)] } := by decide +kernel

/-- R10, R41: a snapshot that is not zero almost everywhere is a map of `Config.stoInit`, changed at one key. -/
theorem test_construct_map : (State.construct {} [] (some 3) []).sto.read 7 = (Config.stoInit 3 7).toList ∧
    ({ base := some 3, cells := [(5, be32 1)] } : Storage).read 5 = be32 1 := ⟨rfl, rfl⟩

/-- withFetchWord: the very next step after reset runs the word's command (STK.SIZE answers 0, VS1). -/
theorem test_fetch_word : (next? (step (State.reset.withFetchWord 16 0b100000100))).map (·.rspPort) =
    some (some (.ok (.size 0))) := by decide

/-- R98: a step refuses a reserved select; R325: with no command the state is held. -/
theorem test_step_reserved_and_idle :
    refusal? (step ((st []).present [Command.ofSel 0x151])) = some (.invalidSelect 0x151) ∧
    next? (step (st [1])) = some (st [1]) := by decide

/-- R301: the status codes. -/
theorem test_status_codes : [Response.ok .none, .error .stackOverflow, .error .stackUnderflow, .error .emptyStack,
    .error .indexOutOfRange, .error .invalidPushSize, .error .invalidDupSize, .error .invalidSwapSize,
    .error .pushSizeExceedsCodeSize].map Response.status = [0, 1, 2, 3, 4, 5, 6, 7, 8] := by decide

/-- R45: the observation shows the Stack bottom first and Memory up to its length. -/
theorem test_observe : ({ st [3, 2, 1] with mem := memOf [0xAA, 0] } : State).observe =
    { size := 3, stk := [1, 2, 3], mlen := 2, mem := [0xAA, 0], sto := { base := none, cells := [] }, pc := 0 } := by decide

/-! ## Arithmetic (VA, VB) -/

/-- VA1, VA2, VA9, VA11. -/
theorem test_add_mul : gives .add (st [3, 2, 1]) [5, 1] = true ∧ gives .add (st [1, W (-1)]) [0] = true ∧
    gives .mul (st [W (-1), W (-1)]) [1] = true ∧ gives .mul (st [5, W (-3)]) [W (-15)] = true := by decide +kernel

/-- VB1, VB2, both orders. -/
theorem test_sub : gives .sub (st [5, 3]) [2] = true ∧ gives .sub (stY [5, 3]) [W (-2)] = true ∧
    gives .sub (st [0, 1]) [W (-1)] = true := by decide +kernel

/-- VB4, VB5, VB14, VB15, VB16. -/
theorem test_div_mod : gives .div (st [17, 3]) [5] = true ∧ gives .div (stY [17, 3]) [0] = true ∧
    gives .div (st [17, 0]) [0] = true ∧ gives .mod (st [17, 3]) [2] = true ∧ gives .mod (stY [17, 3]) [3] = true ∧
    gives .mod (st [17, 0]) [0] = true := by decide +kernel

/-- VB8 to VB11, VB13. -/
theorem test_sdiv : gives .sdiv (st [W (-7), 2]) [W (-3)] = true ∧ gives .sdiv (st [7, W (-2)]) [W (-3)] = true ∧
    gives .sdiv (st [W (2 ^ 255), W (-1)]) [W (2 ^ 255)] = true ∧ gives .sdiv (st [W (-7), 0]) [0] = true ∧
    gives .sdiv (stY [W (-7), 2]) [0] = true := by decide +kernel

/-- VB17, VB18, VB20, VB21. -/
theorem test_smod : gives .smod (st [W (-7), 2]) [W (-1)] = true ∧ gives .smod (st [7, W (-2)]) [1] = true ∧
    gives .smod (st [W (2 ^ 255), W (-1)]) [0] = true ∧ gives .smod (st [W (-7), 0]) [0] = true ∧
    gives .smod (stY [7, W (-2)]) [W (-2)] = true := by decide +kernel

/-- VA22 (a truncated sum would give 4), VA23, VA26; VA29 (a truncated product would give 1), VA30. -/
theorem test_addmod_mulmod : gives .addmod (st [W (-1), W (-1), 10]) [0] = true ∧
    gives .addmod (st [15, 2, 0]) [0] = true ∧ gives .addmod (st [15, 2, 7, 99]) [3, 99] = true ∧
    gives .mulmod (st [W (-1), W (-1), 12]) [9] = true ∧ gives .mulmod (st [4, 5, 0]) [0] = true := by decide +kernel

/-- VA20, VB22, VB23, VB26 (a 256-bit exponent). -/
theorem test_exp : gives .exp (st [0, 0]) [1] = true ∧ gives .exp (st [3, 5]) [243] = true ∧
    gives .exp (stY [3, 5]) [125] = true ∧ gives .exp (st [2, 256]) [0] = true ∧
    gives .exp (stY [W (-1), 3]) [0xaaaaaaaaaaaaaaaaaaaaaaaaaaaaaaaaaaaaaaaaaaaaaaaaaaaaaaaaaaaaaaab] = true := by
  decide +kernel

/-- VA35, VA36, VA39, VA40, VA41: below, at and past index 31. -/
theorem test_signextend : gives .signextend (st [0x1234ff80, 0]) [W (-128)] = true ∧
    gives .signextend (st [0x1234ff7f, 0]) [127] = true ∧
    gives .signextend (st [W (2 ^ 247), 30]) [0xff80000000000000000000000000000000000000000000000000000000000000] = true ∧
    gives .signextend (st [128, 31]) [128] = true ∧ gives .signextend (st [128, W (-1)]) [128] = true := by
  decide +kernel

/-! ## Comparison and bitwise (VC, VD) -/

/-- VC1, VC2, VC5, VC6, VC3. -/
theorem test_lt_gt : gives .lt (st [3, 5]) [1] = true ∧ gives .lt (stY [3, 5]) [0] = true ∧
    gives .gt (st [3, 5]) [0] = true ∧ gives .lt (st [W (-1), 0]) [0] = true ∧ gives .gt (st [W (-1), 0]) [1] = true ∧
    gives .lt (st [4, 4]) [0] = true := by decide +kernel

/-- VC7, VC8, VC9, VC13. -/
theorem test_slt_sgt : gives .slt (st [W (-1), 0]) [1] = true ∧ gives .sgt (st [W (-1), 0]) [0] = true ∧
    gives .slt (st [W (2 ^ 255), W (2 ^ 255 - 1)]) [1] = true ∧ gives .sgt (stY [W (-1), 0]) [1] = true ∧
    gives .slt (st [4, 4]) [0] = true := by decide +kernel

/-- VD2, VD3, VD4, VD6, VD8. -/
theorem test_eq_iszero : gives .eq (st [8, 7]) [0] = true ∧ gives .eq (st [W (-1), W (-1)]) [1] = true ∧
    gives .eq (st [0, W (2 ^ 255)]) [0] = true ∧ gives .iszero (st [0, 4]) [1, 4] = true ∧
    gives .iszero (st [W (2 ^ 255)]) [0] = true := by decide +kernel

/-- VD10, VD11, VD12, VD16, VD18. -/
theorem test_and_or_xor_not : gives .and (st [0xff, 0xff0]) [0xf0] = true ∧ gives .or (st [0xff, 0xff0]) [0xfff] = true ∧
    gives .xor (st [0xff, 0xff0]) [0xf0f] = true ∧ gives .not (st [0xf]) [W (-16)] = true ∧
    gives .not (st [W (-1)]) [0] = true := by decide +kernel

/-- VD21, VD22, VD25, VD27: index 31, 0, 32 and 1. -/
theorem test_byte : gives .byte (st [31, 0xab]) [0xab] = true ∧ gives .byte (st [0, 0xab]) [0] = true ∧
    gives .byte (st [32, W (-1)]) [0] = true ∧ gives .byte (st [1, W (2 ^ 247)]) [0x80] = true := by decide +kernel

/-- VD28, VD29, VD30, VD34, VD36, VD37: shifts 255 and 256. -/
theorem test_shl_shr : gives .shl (st [4, 1]) [0x10] = true ∧ gives .shl (st [255, W (-1)]) [W (2 ^ 255)] = true ∧
    gives .shl (st [256, W (-1)]) [0] = true ∧ gives .shr (st [4, 0x100]) [0x10] = true ∧
    gives .shr (st [256, W (-1)]) [0] = true ∧ gives .shr (st [255, W (2 ^ 255)]) [1] = true := by decide +kernel

/-- VD40 to VD43, VD45. -/
theorem test_sar : gives .sar (st [1, W (-3)]) [W (-2)] = true ∧ gives .sar (st [255, W (2 ^ 255)]) [W (-1)] = true ∧
    gives .sar (st [256, W (-8)]) [W (-1)] = true ∧ gives .sar (st [256, 8]) [0] = true ∧
    gives .sar (st [254, W (2 ^ 255 - 1)]) [1] = true := by decide +kernel

/-! ## Memory and hashing (VL, VM, VH) -/

/-- VL2 to VL5: MSTORE grows to the exact byte, MLOAD reads big-endian and does not grow. -/
theorem test_mstore_mload : memAfter .mstore (st [1, 0x1234]) = some (zeros 31 ++ [0x12, 0x34]) ∧
    gives .mload ({ st [2] with mem := memOf (zeros 31 ++ [0x12, 0x34]) }) [0x123400] = true ∧
    gives .mload ({ st [0] with mem := memOf (zeros 31 ++ [0x12, 0x34]) }) [0x12] = true ∧
    memAfter .mload ({ st [2] with mem := memOf [1] }) = some [1] := by decide +kernel

/-- VL8: only the low byte is stored, and the gap is zero-filled. -/
theorem test_mstore8 : memAfter .mstore8 ({ st [4, 0x1ff] with mem := memOf [1, 2] }) = some [1, 2, 0, 0, 0xFF] ∧
    gives .mstore8 (st [2, 0xabcd, 5]) [5] = true := by decide +kernel

/-- R73: an offset of 2^256 - 1 is used exactly; no bit of it is dropped. -/
theorem test_mstore8_huge : (next? (exec .mstore8 (st [W (-1), 1]))).map (·.mem.mlen) = some (2 ^ 256) := by
  decide +kernel

/-- VH1, VH3, VH7, VH9: the request on the hash port, the Words below kept. -/
theorem test_keccak256 : ∃ w,
    next? (exec .keccak256 ({ st [0, 4, 9] with mem := memOf [0xAA, 0xBB] })) = some { st [w, 9] with
      mem := memOf [0xAA, 0xBB], rspPort := some (.ok .none), hashPort := some [0xAA, 0xBB, 0, 0] } ∧
    errs .keccak256 (st []) .stackUnderflow = true := ⟨_, rfl, by decide⟩

/-- VM7, VM16, VM17, VM6: exact growth, a store across the end, empty payloads past and at the end. -/
theorem test_mem_store : memAfter (.memStore [0xAA, 0xBB] 3) (st []) = some [0, 0, 0, 0xAA, 0xBB] ∧
    memAfter (.memStore [1, 2, 3] 1) ({ st [] with mem := memOf [7, 8] }) = some [7, 1, 2, 3] ∧
    memAfter (.memStore [] 3) ({ st [] with mem := memOf [7] }) = some [7, 0, 0] ∧
    memAfter (.memStore [] 0) (st []) = some [] := by decide +kernel

/-- VM9, VM11, VM12, VM13. -/
theorem test_mem_loads : answers (.memLoad 3 4) ({ st [] with mem := memOf [0, 0, 0, 0xAA, 0xBB] })
      (.bytes [0xAA, 0xBB, 0, 0]) = true ∧
    answers (.memLoadB 4) ({ st [] with mem := memOf [0, 0, 0, 0xAA, 0xBB] }) (.byte 0xBB) = true ∧
    answers (.memLoadB 5) ({ st [] with mem := memOf [0, 0, 0, 0xAA, 0xBB] }) (.byte 0) = true ∧
    answers (.memLoadW 3) ({ st [] with mem := memOf [0, 0, 0, 0xAA, 0xBB] }) (.word (0xaabb <<< 240)) = true := by
  decide +kernel

/-- VM15, VM19. -/
theorem test_mem_storeb_storew : memAfter (.memStoreB 0x11 3) ({ st [] with mem := memOf [5] }) = some [5, 0, 0, 0x11] ∧
    memAfter (.memStoreW 222 32) (st []) = some (zeros 63 ++ [0xDE]) := by decide +kernel

/-! ## Stack commands (VP, VW, VS) and Storage (VT) -/

/-- VP1, VP3, VP4: POP returns no result; PUSH0 moves pc by PUSH0_PC_STEP. -/
theorem test_pop_push0 : gives .pop (st [2, 1]) [1] = true ∧ errs .pop (st []) .stackUnderflow = true ∧
    (next? (exec .push0 (withCode [1] 4 [9]))).map (fun t => (t.stack, t.pc)) = some ([0, 9], 4) ∧
    (next? (exec .push0 ({ st [] with params := { push0PcStep := 1 } }))).map (·.pc) = some 1 := by decide +kernel

/-- VP2, VP9, and VE15: the bound on code is tested before the capacity. -/
theorem test_push1 : (next? (exec .push1 (withCode [0x60, 0x11] 0 []))).map (fun t => (t.stack, t.pc)) = some ([0x11], 2) ∧
    errs .push1 (withCode [0x60, 0x11] 1 []) .pushSizeExceedsCodeSize = true ∧
    errs .push1 (withCode [0x60] 0 full) .pushSizeExceedsCodeSize = true ∧
    errs .push1 (withCode [0x60, 0x11] 0 full) .stackOverflow = true := by decide +kernel

/-- The family check of section 2.9 on `code = N 01 02 .. N`, for every N. -/
theorem test_push_family : (pushFamily.all fun p =>
    let code : Bytes := (List.range (p.1 + 1)).map (BitVec.ofNat 8)
    let v : Word := (List.range p.1).foldl (fun n k => n * 256 + BitVec.ofNat 256 (k + 1)) 0
    (next? (exec p.2 (withCode code 0 []))).map (fun t => (t.stack, t.pc)) = some ([v], p.1 + 1) ∧
    errs p.2 (withCode code.dropLast 0 []) .pushSizeExceedsCodeSize) = true := by decide +kernel

/-- The family checks of section 2.10, for every N. -/
theorem test_dup_swap_families :
    (dupFamily.all fun p =>
      let l : List Word := (List.range p.1).map (BitVec.ofNat 256)
      gives p.2 (st l) ((BitVec.ofNat 256 (p.1 - 1)) :: l) ∧ errs p.2 (st []) .emptyStack ∧
      (p.1 = 1 ∨ errs p.2 (st l.dropLast) .indexOutOfRange)) = true ∧
    (swapFamily.all fun p =>
      let mid : List Word := (List.range (p.1 - 1)).map (BitVec.ofNat 256)
      gives p.2 (st (100 :: mid ++ [200, 5])) (200 :: mid ++ [100, 5]) ∧ errs p.2 (st []) .emptyStack ∧
      errs p.2 (st (100 :: mid)) .indexOutOfRange) = true := by decide +kernel

/-- VS21, VS11 to VS13, VS3, VS4, VS14. -/
theorem test_stk_pop_peek : answers .stkPop (st [3, 4, 2, 1]) (.word 3) = true ∧
    answers (.stkPeek 1) (st [4, 3, 2, 1]) (.word 4) = true ∧ answers (.stkPeek 4) (st [4, 3, 2, 1]) (.word 1) = true ∧
    errs (.stkPeek 5) (st [4, 3, 2, 1]) .indexOutOfRange = true ∧ errs (.stkPeek 0) (st []) .emptyStack = true ∧
    refusal? (exec (.stkPeek 0) (st [1])) = some (.peekDepth 0) := by decide +kernel

/-- VS15, VS16, VS7, VS5, VS19, VS1, VS6, VS24, VS25. -/
theorem test_stk_swap_push_size : gives (.stkSwap 2) (st [4, 3, 2, 1]) [3, 4, 2, 1] = true ∧
    gives (.stkSwap 4) (st [3, 4, 2, 1]) [1, 4, 2, 3] = true ∧ errs (.stkSwap 2) (st [1]) .indexOutOfRange = true ∧
    errs (.stkSwap 1) (st []) .emptyStack = true ∧ refusal? (exec (.stkSwap 1) (st [1])) = some (.swapDepth 1) ∧
    answers .stkSize (st full) (.size 1024) = true ∧ gives (.stkPush 8) (st full.tail) (8 :: full.tail) = true ∧
    errs (.stkPush 8) (st full) .stackOverflow = true := by decide +kernel

/-- VT1, VT3, VT5, VT8. -/
theorem test_storage : answers (.stoLoad 123) (st []) (.val (zeros 32)) = true ∧
    answers (.stoLoad 7) (withSto [(7, be32 5)]) (.val (be32 5)) = true ∧
    stoAfter (.stoStore (-1) (be32 9)) (withSto [(7, be32 5)]) = some [(-1, be32 9), (7, be32 5)] ∧
    stoAfter (.stoStore 7 (zeros 32)) (withSto [(-1, be32 9), (7, be32 5)]) = some [(-1, be32 9)] := by decide +kernel

/-- R10, R42: with KeyT of 8 bits the bounds are keys, and what lies beyond them is none. -/
theorem test_key_range :
    answers (.stoLoad 0) bytesAsKeys (.val (zeros 32)) = true ∧
    stoAfter (.stoStore 255 (be32 9)) bytesAsKeys = some [(255, be32 9)] ∧
    refusal? (exec (.stoLoad (-1)) bytesAsKeys) = some (.keyRange (-1)) ∧
    refusal? (exec (.stoStore 256 (be32 9)) bytesAsKeys) = some (.keyRange 256) := by decide +kernel

/-- R73, R74: a set limit refuses what exceeds it, and not what reaches it. -/
theorem test_limits :
    refusal? (exec .mload (limited 7 [8])) = some (.offsetLimit 8) ∧
    gives .mload (limited 7 [7]) [0] = true ∧
    refusal? (exec .mstore (bounded 32 [1, 5])) = some (.memLimit 33) ∧
    gives .mstore (bounded 32 [0, 5]) [] = true := by decide +kernel

/-! ## Witnesses: for each statement with hypotheses, inputs that meet them, clause by clause -/

/-- DecodeOfEncodeIsTheCommand. -/
theorem wit_wellFormed : (Instr.stoStore 3 (be32 5)).wellFormed = true ∧ Instr.add.wellFormed = true := by decide +kernel

/-- DecodedCommandKeepsItsSelect, StepPerformsTheDecodedCommand: a transfer that decodes stands on the port. -/
theorem wit_decodes : decode (Command.ofSel 0x104) = .ok .stkSize ∧
    ((st [1]).present [Command.ofSel 0x104]).cmdPort = Command.ofSel 0x104 :: [] := ⟨rfl, rfl⟩

/-- PayloadFieldsAreUsedAsTheyAre and the select clauses (`hasSelect`): every select there is some transfer's, STO.STORE's
with 32 bytes. -/
theorem wit_selects : (∀ n : BitVec 9, (Command.ofSel n).sel = n) ∧ (Command.ofSel 0x120).argVal.length = 32 :=
  ⟨fun _ => rfl, rfl⟩

/-- ReservedSelectsAreRefused: both ends of every range, and the selects next to them. -/
theorem wit_reserved : (∀ n ∈ [0x000, 0x00C, 0x00F, 0x01E, 0x01F, 0x021, 0x04F, 0x054, 0x05E, 0x0A0, 0x0FF, 0x105, 0x10F,
    0x116, 0x11F, 0x122, 0x1FF], reservedSelect n) ∧
    (∀ n ∈ [0x001, 0x00B, 0x010, 0x01D, 0x020, 0x050, 0x053, 0x05F, 0x09F, 0x100, 0x104, 0x110, 0x115, 0x120, 0x121],
      ¬ reservedSelect n) ∧
    ((st []).present [Command.ofSel 0]).cmdPort = Command.ofSel 0 :: [] := by decide

/-- StepWithNoCommandHoldsTheState. -/
theorem wit_idle : (st [1]).cmdPort = [] := rfl

/-- ConstructionGivesTheResetValues, ConstructionMeetsTheInvariant: a snapshot of two keys and a key outside it, over no
map and over one. -/
theorem wit_snapshot : (∀ c ∈ [((5 : Int), val 1), (-2, val 2)], c.1 ≠ 7) ∧
    ([((5 : Int), val 1), (-2, val 2)].map Prod.fst).Nodup ∧ (none : Option Nat) = none ∧ (some 3 : Option Nat) = some 3 := by
  decide

/-- A state with something in every variable, a command waiting, and a response on the port. -/
def busy (r : Option Response) : State :=
  { stack := [3, 2, 1], mem := memOf [0, 0xAA], sto := { base := none, cells := [(-2, be32 2), (5, be32 1)] }, pc := 1, code := [0x60, 0x11],
    params := { memLimit := some 100 }, cmdPort := [Command.ofSel 0x001], rspPort := r, hashPort := none }

/-- StepKeepsTheInvariant, CodeIsImmutable: the busy state meets the invariant and its step answers. -/
theorem wit_invariant : (busy none).Inv ∧ ∃ t, step (busy none) = .next t ∧ t.stack = [5, 1] :=
  ⟨⟨by decide, by decide, by decide +kernel, by decide, by decide⟩, _, rfl, by decide +kernel⟩

/-- ObservationDeterminesTheBehaviour: two states that differ in the response port only. -/
theorem wit_observation : (busy none).Inv ∧ (busy (some (.error .emptyStack))).Inv ∧
    (busy none).observe = (busy (some (.error .emptyStack))).observe ∧
    busy none ≠ busy (some (.error .emptyStack)) ∧
    (busy none).code = (busy (some (.error .emptyStack))).code ∧
    (busy none).params = (busy (some (.error .emptyStack))).params ∧
    (∃ t, exec .add (busy none) = .next t) ∧ exec (.stkPeek 0) (busy none) = .refused (.peekDepth 0) :=
  ⟨wit_invariant.1, ⟨by decide, by decide, by decide +kernel, by decide, by decide⟩, rfl, by decide, rfl, rfl,
    ⟨_, rfl⟩, rfl⟩

/-- StackOverflowExactlyForPushesAtCapacity: a full Stack, and for PUSHN code that holds its operand exactly. -/
theorem wit_full : (st full).size = 1024 ∧ (withCode [0x60, 0x11] 0 full).size = 1024 ∧
    Instr.push1.pushesFirst = true ∧ Instr.push1.immediateSize = some 1 ∧
    (withCode [0x60, 0x11] 0 full).pc + 1 + 1 = (withCode [0x60, 0x11] 0 full).code.length ∧
    errorOf (exec .push0 (st full)) = some .stackOverflow := by decide +kernel

/-- AnErrorChangesNothing. -/
theorem wit_error : ∃ t, exec .add (st [1]) = .next t ∧ t.rspPort = some (.error .stackUnderflow) := ⟨_, rfl, rfl⟩

/-- RefusalsExactlyWhereThereIsNoMeaning: each clause in both directions, each form of store at one past the limit, and
KECCAK256 for its first Word and for its second. -/
theorem wit_refusals : exec (.stkPeek 0) (st [1]) = .refused (.peekDepth 0) ∧
    exec (.stkSwap 1) (st [1]) = .refused (.swapDepth 1) ∧
    (¬ bytesAsKeys.keyOk 256 ∧ exec (.stoLoad 256) bytesAsKeys = .refused (.keyRange 256)) ∧
    (offsetWords (limited 7 [8]) .mload = [] ++ 8 :: [] ∧ exec .mload (limited 7 [8]) = .refused (.offsetLimit 8)) ∧
    (offsetWords (limited 7 [8, 9]) .mstore = [] ++ 8 :: [] ∧ exec .mstore (limited 7 [8, 9]) = .refused (.offsetLimit 8)) ∧
    (offsetWords (limited 7 [8, 9]) .keccak256 = [] ++ 8 :: [9] ∧
      exec .keccak256 (limited 7 [8, 9]) = .refused (.offsetLimit 8)) ∧
    (offsetWords (limited 7 [7, 8]) .keccak256 = [7] ++ 8 :: [] ∧
      exec .keccak256 (limited 7 [7, 8]) = .refused (.offsetLimit 8)) ∧
    (storeEnd (bounded 9 [0, 5]) .mstore = some 32 ∧ exec .mstore (bounded 9 [0, 5]) = .refused (.memLimit 32)) ∧
    (storeEnd (bounded 9 [9, 5]) .mstore8 = some 10 ∧ exec .mstore8 (bounded 9 [9, 5]) = .refused (.memLimit 10)) ∧
    (storeEnd (bounded 9 []) (.memStore [1] 9) = some 10 ∧
      exec (.memStore [1] 9) (bounded 9 []) = .refused (.memLimit 10)) ∧
    ¬ (bounded 9 []).memOk 10 ∧ (bounded 9 []).memOk 9 :=
  ⟨rfl, rfl, ⟨by decide, rfl⟩, ⟨rfl, rfl⟩, ⟨rfl, rfl⟩, ⟨rfl, rfl⟩, ⟨rfl, rfl⟩, ⟨rfl, rfl⟩, ⟨rfl, rfl⟩, ⟨rfl, rfl⟩,
    by decide, by decide⟩

/-- WithoutLimitsEveryCommandAnswers: the two commands with a condition, at its bound. -/
theorem wit_no_limits : (st [1]).params = { offsetLimit := none, memLimit := none, keyMin := none, keyMax := none } ∧
    (∀ d, Instr.stkPeek 1 = .stkPeek d → (st [1]).size = 0 ∨ 1 ≤ d) ∧
    (∀ d, Instr.stkSwap 2 = .stkSwap d → (st [1]).size = 0 ∨ 2 ≤ d) := by
  refine ⟨rfl, fun d h => ?_, fun d h => ?_⟩ <;> cases h <;> decide

/-- OnlyPushesMovePc, OnlyStoresChangeMemoryAndStorage: next states with pc, Memory and Storage changed. -/
theorem wit_changes : (∃ t, exec .push1 (withCode [0x60, 0x11] 0 []) = .next t ∧ t.pc ≠ 0) ∧
    (∃ t, exec (.memStore [1] 0) (st []) = .next t ∧ t.mem ≠ (st []).mem) ∧
    (∃ t, exec (.stoStore 7 (be32 5)) (st []) = .next t ∧ t.sto ≠ (st []).sto) :=
  ⟨⟨_, rfl, by decide⟩, ⟨_, rfl, by decide⟩, ⟨_, rfl, by decide +kernel⟩⟩

/-- HashPortIsUsedByKeccakOnly, KeccakHashesItsRange: a request is made; both Words at the limit, the first above it, and
the second alone above it. -/
theorem wit_keccak : (∃ t, exec .keccak256 (st [0, 2]) = .next t ∧ t.hashPort = some [0, 0]) ∧
    (limited 7 [7, 7]).stack = 7 :: 7 :: [] ∧ (limited 7 [7, 7]).offsetOk 7 ∧ ¬ (limited 7 [8, 7]).offsetOk 8 ∧
    (limited 7 [7, 8]).stack = 7 :: 8 :: [] := ⟨⟨_, rfl, rfl⟩, rfl, by decide, by decide, rfl⟩

/-- OperandOrderMattersOnlyForTenCommands. -/
theorem wit_order : Instr.add.orderSensitive = false ∧ Instr.sub.orderSensitive = true := by decide

/-- The statements on two, three and one operands: too few Words, and `x, y` placed under both orders. -/
theorem wit_operands : (st [1]).size < 2 ∧ (st [1, 2]).size < 3 ∧ (st []).size < 1 ∧ (st [5, 3, 9]).operandsXY 5 3 [9] ∧
    (stY [5, 3, 9]).operandsXY 3 5 [9] ∧ (st [5, 3, 7, 9]).stack = 5 :: 3 :: 7 :: [9] := by decide

/-- The value clauses of DIV, MOD, SDIV, SMOD, ADDMOD, MULMOD, EQ, SIGNEXTEND and BYTE at their bounds. -/
theorem wit_value_clauses : U 0 = 0 ∧ U 1 ≠ 0 ∧ S (W (2 ^ 255)) = -2 ^ 255 ∧ S (W (-1)) = -1 ∧
    ¬ (S (W (2 ^ 255)) = -2 ^ 255 ∧ S 1 = -1) ∧ 0 ≤ S 0 ∧ S (W (-7)) < 0 ∧ U 30 < 31 ∧ 31 ≤ U 31 ∧ U 31 < 32 ∧ 32 ≤ U 32 ∧
    (7 : Word).getLsbD 0 ≠ (8 : Word).getLsbD 0 := by decide +kernel

/-- MloadReadsBigEndian, MstoreWritesBigEndian, Mstore8...: an offset at its limit and above it, an end at its limit and
above it. -/
theorem wit_limits : (limited 7 [7]).offsetOk 7 ∧
    ¬ (limited 7 [8]).offsetOk 8 ∧ (st [W (-1)]).offsetOk (W (-1)) ∧
    (bounded 32 []).memOk 32 ∧
    ¬ (bounded 32 []).memOk 33 ∧ (st []).memOk (2 ^ 256) := by decide +kernel

/-- PopDiscardsTheTop, Push0PushesZero, StkPushPopAndSize: empty, not empty, one below full, full. -/
theorem wit_sizes : (st []).size = 0 ∧ (st [2, 1]).stack = 2 :: [1] ∧ (st full.tail).size = 1023 ∧
    (st full).size = 1024 := by decide +kernel

/-- PushNPushesItsImmediate: code that ends with the operand, one byte less, a full Stack. -/
theorem wit_push : (32, Instr.push32) ∈ pushFamily ∧ (withCode (zeros 33) 0 []).pc + 32 + 1 = (withCode (zeros 33) 0 []).code.length ∧
    (withCode (zeros 32) 0 []).code.length < (withCode (zeros 32) 0 []).pc + 32 + 1 ∧
    (withCode (zeros 33) 0 full).size = 1024 := by decide +kernel

/-- DupNPushesACopy, SwapNExchangesTwoWords: exactly deep enough, one Word short, empty, full. -/
theorem wit_dup_swap : (16, Instr.dup16) ∈ dupFamily ∧ (st (List.replicate 16 1)).size = 16 ∧
    (st (List.replicate 15 1)).size < 16 ∧ (16, Instr.swap16) ∈ swapFamily ∧ (st (List.replicate 17 1)).size = 16 + 1 ∧
    (st (List.replicate 16 1)).size < 16 + 1 ∧ (st []).size = 0 ∧ (st full).size = 1024 := by decide +kernel

/-- StkPeekReturnsTheWordAtADepth, StkSwapExchangesTwoWords: each clause at its bound on a Stack of two. -/
theorem wit_depths : (1 : Int) ≤ 2 ∧ (2 : Int) ≤ (st [2, 1]).size ∧ ((st [2, 1]).size : Int) < 3 ∧ (0 : Int) < 1 ∧
    (1 : Int) < 2 ∧ (st [2, 1]).size ≠ 0 := by decide

/-- StackLaws: a push and a pop, and two swaps, that answer. -/
theorem wit_stack_laws : (∃ t u, exec (.stkPush 9) (st [1]) = .next t ∧ t.rspPort = some (.ok .none) ∧
      exec .stkPop t = .next u) ∧
    (∃ t u, exec (.stkSwap 2) (st [2, 1]) = .next t ∧ exec (.stkSwap 2) t = .next u) :=
  ⟨⟨_, _, rfl, rfl, rfl⟩, ⟨_, _, rfl, rfl⟩⟩

/-- MemStoreWritesItsBytes, MemStoreByteAndWordWriteTheirBytes, MemLoadsReturnBytesWithoutGrowth: indices inside and
outside the bytes stored, and an index past the length. -/
theorem wit_memory_indices : 0 < ([1, 2] : Bytes).length ∧ 1 < ([1, 2] : Bytes).length ∧
    5 + ([1, 2] : Bytes).length ≤ 7 ∧ (memOf [1, 2]).mlen ≤ 1 + 1 := by decide

/-- StorageStoreAndLoad: keys at both ends of a narrow KeyT, an unlisted key over no map and over one. -/
theorem wit_keys : bytesAsKeys.keyOk 0 ∧ bytesAsKeys.keyOk 255 ∧ (st []).keyOk (-1) ∧ (busy none).sto.base = none ∧
    (∀ c ∈ (busy none).sto.cells, c.1 ≠ 7) ∧ (State.construct {} [] (some 3) []).sto.base = some 3 := by decide

/-- StoresCommuteAndZeroUndoesThem: a canonical Storage, a key that is listed and one that is not, and stores that answer. -/
theorem wit_storage : Storage.wf (busy none).sto ∧ (∀ c ∈ (busy none).sto.cells, c.1 ≠ 7) ∧
    (5, be32 1) ∈ (busy none).sto.cells ∧ (7 : Int) ≠ 8 ∧ (be32 1).length = 32 ∧ (busy none).keyOk 5 ∧
    (∃ t u, exec (.stoStore 7 (be32 1)) (busy none) = .next t ∧ exec (.stoStore 8 (be32 2)) t = .next u) ∧
    (∃ t u, exec (.stoStore 8 (be32 2)) (busy none) = .next t ∧ exec (.stoStore 7 (be32 1)) t = .next u) ∧
    (∃ t u, exec (.stoStore 5 (be32 1)) (busy none) = .next t ∧ exec (.stoStore 5 (zeros 32)) t = .next u) :=
  ⟨by decide +kernel, by decide, by decide, by decide, by decide, by decide, ⟨_, _, rfl, rfl⟩, ⟨_, _, rfl, rfl⟩,
    ⟨_, _, rfl, rfl⟩⟩

/-- ResponseStatusNumbers: a command that answers OK and one for each error kind that is raised. -/
theorem wit_status : ([(Instr.add, st [1, 2]), (.push0, st full), (.add, st []), (.dup1, st []), (.dup2, st [1]),
    (.push1, st [])].map fun p => (next? (exec p.1 p.2)).bind fun t => t.rspPort.map Response.status) =
    [some 0, some 1, some 2, some 3, some 4, some 8] := by decide +kernel

end Sys2Proof.Tests
end

/-! PROOFS. Which commands are refused, and why (O17). Each partial operation gets one equivalence that says when it is
refused; every other command answers. -/

namespace Sys2Proof

/-- The commands that the spec gives no meaning for some operands or parameters (R18). -/
def Instr.mayBeRefused : Instr → Bool
  | .stkPeek _ | .stkSwap _ | .stoStore _ _ | .stoLoad _ | .mload | .mstore | .mstore8 | .keccak256 | .memStore _ _
  | .memStoreB _ _ | .memStoreW _ _ => true
  | _ => false

/-- The commands with a depth or a key that may be out of range (R42, D16). -/
def Instr.hasDepthOrKey : Instr → Bool
  | .stkPeek _ | .stkSwap _ | .stoStore _ _ | .stoLoad _ => true
  | _ => false

namespace Machine

variable {s : State} {i : Instr} {r : Refusal}

/-! ## The commands that always answer -/

theorem unaryOp_answers (f : Word → Word) (s : State) : ∃ t, unaryOp f s = .next t := by
  obtain ⟨-, e⟩ | ⟨_, _, -, e⟩ := unaryOp_cases f s <;> exact ⟨_, e⟩

theorem binaryXY_answers (f : Word → Word → Word) (s : State) : ∃ t, binaryXY f s = .next t := by
  obtain ⟨-, e⟩ | ⟨_, _, _, -, e⟩ := binaryXY_cases f s <;> exact ⟨_, e⟩

theorem binaryTop_answers (f : Word → Word → Word) (s : State) : ∃ t, binaryTop f s = .next t := by
  obtain ⟨-, e⟩ | ⟨_, _, _, -, e⟩ := binaryTop_cases f s <;> exact ⟨_, e⟩

theorem ternaryTop_answers (f : Word → Word → Word → Word) (s : State) : ∃ t, ternaryTop f s = .next t := by
  obtain ⟨-, e⟩ | ⟨_, _, _, _, -, e⟩ := ternaryTop_cases f s <;> exact ⟨_, e⟩

theorem pushN_answers (n : Nat) (s : State) : ∃ t, pushN n s = .next t := by
  obtain ⟨-, e⟩ | ⟨-, -, e⟩ | ⟨-, -, e⟩ := pushN_cases n s <;> exact ⟨_, e⟩

theorem dupN_answers {n : Nat} (hn : 1 ≤ n) (s : State) : ∃ t, dupN n s = .next t := by
  obtain ⟨-, e⟩ | ⟨-, -, e⟩ | ⟨-, -, e⟩ | ⟨_, -, -, -, e⟩ := dupN_cases n hn s <;> exact ⟨_, e⟩

theorem swapN_answers {n : Nat} (hn : 1 ≤ n) (s : State) : ∃ t, swapN n s = .next t := by
  obtain ⟨-, e⟩ | ⟨-, -, e⟩ | ⟨_, _, _, -, -, -, e⟩ := swapN_cases n hn s <;> exact ⟨_, e⟩

theorem execPop_answers (s : State) : ∃ t, execPop s = .next t := by
  obtain ⟨-, e⟩ | ⟨_, _, -, e⟩ := execPop_cases s <;> exact ⟨_, e⟩

theorem execPush0_answers (s : State) : ∃ t, execPush0 s = .next t := by
  obtain ⟨-, e⟩ | ⟨-, e⟩ := execPush0_cases s <;> exact ⟨_, e⟩

theorem execStkPush_answers (v : Word) (s : State) : ∃ t, execStkPush v s = .next t := by
  obtain ⟨-, e⟩ | ⟨-, e⟩ := execStkPush_cases v s <;> exact ⟨_, e⟩

theorem execStkPop_answers (s : State) : ∃ t, execStkPop s = .next t := by
  obtain ⟨-, e⟩ | ⟨_, _, -, e⟩ := execStkPop_cases s <;> exact ⟨_, e⟩

theorem exec_answers (h : i.mayBeRefused = false) (s : State) : ∃ t, exec i s = .next t := by
  cases i
  case stkPeek | stkSwap | stoStore | stoLoad | mload | mstore | mstore8 | keccak256 | memStore | memStoreB
      | memStoreW => cases h
  case iszero | not => exact unaryOp_answers _ s
  case addmod | mulmod => exact ternaryTop_answers _ s
  case signextend | byte | shl | shr | sar => exact binaryTop_answers _ s
  case add | mul | sub | div | sdiv | mod | smod | exp | lt | gt | slt | sgt | eq | and | or | xor =>
    exact binaryXY_answers _ s
  case pop => exact execPop_answers s
  case push0 => exact execPush0_answers s
  case stkPush v => exact execStkPush_answers v s
  case stkPop => exact execStkPop_answers s
  case stkSize | memLoad | memLoadB | memLoadW => exact ⟨_, rfl⟩
  case dup1 | dup2 | dup3 | dup4 | dup5 | dup6 | dup7 | dup8 | dup9 | dup10 | dup11 | dup12 | dup13 | dup14 | dup15
      | dup16 => exact dupN_answers (by decide) s
  case swap1 | swap2 | swap3 | swap4 | swap5 | swap6 | swap7 | swap8 | swap9 | swap10 | swap11 | swap12 | swap13
      | swap14 | swap15 | swap16 => exact swapN_answers (by decide) s
  all_goals exact pushN_answers _ s

/-! ## When each partial operation is refused -/

theorem refused_eq_iff {a : Refusal} : (.refused a : Out) = .refused r ↔ r = a := by
  rw [Host.Outcome.refused.injEq, eq_comm]

theorem not_offsetOk {w : Word} {limit : Nat} (h : s.params.offsetLimit = some limit) (hlt : limit < U w) :
    ¬ s.offsetOk w := fun ho => absurd (ho limit h) (by omega)

theorem not_memOk {n limit : Nat} (h : s.params.memLimit = some limit) (hlt : limit < n) : ¬ s.memOk n :=
  fun hm => absurd (hm limit h) (by omega)

/-- R122, D16. -/
theorem execStkPeek_refused_iff {d : Int} :
    execStkPeek d s = .refused r ↔ s.size ≠ 0 ∧ d < 1 ∧ r = .peekDepth d := by
  obtain ⟨h, e⟩ | ⟨h, hd, e⟩ | ⟨h, hd, e⟩ | ⟨_, hd, -, -, e⟩ := execStkPeek_cases d s <;> rw [e]
  · exact iff_of_false nofun fun hr => hr.1 h
  · rw [and_iff_right h, and_iff_right hd, refused_eq_iff]
  · exact iff_of_false nofun fun ⟨_, hlt, _⟩ => by omega
  · exact iff_of_false nofun fun ⟨_, hlt, _⟩ => by omega

/-- R123, D16. -/
theorem execStkSwap_refused_iff {d : Int} :
    execStkSwap d s = .refused r ↔ s.size ≠ 0 ∧ d < 2 ∧ r = .swapDepth d := by
  obtain ⟨h, e⟩ | ⟨h, hd, e⟩ | ⟨h, hd, e⟩ | ⟨_, _, _, hd, -, -, -, e⟩ :=
    execStkSwap_cases d s <;> rw [e]
  · exact iff_of_false nofun fun hr => hr.1 h
  · rw [and_iff_right h, and_iff_right hd, refused_eq_iff]
  · exact iff_of_false nofun fun ⟨_, hlt, _⟩ => by omega
  · exact iff_of_false nofun fun ⟨_, hlt, _⟩ => by omega

/-- R42, log 9. -/
theorem execStoStore_refused_iff {k : Int} {v : Bytes} :
    execStoStore k v s = .refused r ↔ ¬ s.keyOk k ∧ r = .keyRange k := by
  obtain ⟨h, e⟩ | ⟨h, e⟩ := execStoStore_cases k v s <;> simp [e, h, eq_comm]

/-- R42, log 9. -/
theorem execStoLoad_refused_iff {k : Int} :
    execStoLoad k s = .refused r ↔ ¬ s.keyOk k ∧ r = .keyRange k := by
  obtain ⟨h, e⟩ | ⟨h, e⟩ := execStoLoad_cases k s <;> simp [e, h, eq_comm]

/-- R74, D12. -/
theorem storePort_refused_iff {v : Bytes} {p : Nat} :
    storePort v p s = .refused r ↔ ¬ s.memOk (p + v.length) ∧ r = .memLimit (p + v.length) := by
  obtain ⟨hm, e⟩ | ⟨_, hl, hlt, e⟩ := storePort_cases v p s <;> rw [e]
  · exact iff_of_false nofun fun h => h.1 hm
  · rw [and_iff_right (not_memOk hl hlt), refused_eq_iff]

/-! ## The Word and the Memory end a refusal blames -/

/-- R73: `r` blames the first Word above OFFSET_LIMIT among those a command uses as offset or size. -/
def OffsetRefused (s : State) (ws : List Word) (r : Refusal) : Prop :=
  ∃ l w l', ws = l ++ w :: l' ∧ (∀ u ∈ l, s.offsetOk u) ∧ ¬ s.offsetOk w ∧ r = .offsetLimit (U w)

@[simp] theorem offsetRefused_nil : ¬ OffsetRefused s [] r := by
  rintro ⟨l, w, l', h, -⟩
  simp at h

theorem offsetRefused_cons_of_ok {w : Word} {ws : List Word} (hw : s.offsetOk w) :
    OffsetRefused s (w :: ws) r ↔ OffsetRefused s ws r := by
  constructor
  · rintro ⟨_ | ⟨a, l⟩, u, l', h, hl, hu, hr⟩ <;> obtain ⟨rfl, rfl⟩ := List.cons.inj h
    · exact absurd hw hu
    · exact ⟨l, u, l', rfl, fun x hx => hl x (List.mem_cons_of_mem _ hx), hu, hr⟩
  · rintro ⟨l, u, l', rfl, hl, hu, hr⟩
    exact ⟨w :: l, u, l', rfl, List.forall_mem_cons.mpr ⟨hw, hl⟩, hu, hr⟩

theorem offsetRefused_cons_of_not_ok {w : Word} {ws : List Word} (hw : ¬ s.offsetOk w) :
    OffsetRefused s (w :: ws) r ↔ r = .offsetLimit (U w) := by
  constructor
  · rintro ⟨_ | ⟨a, l⟩, u, l', h, hl, hu, hr⟩ <;> obtain ⟨rfl, rfl⟩ := List.cons.inj h
    · exact hr
    · exact absurd (hl w List.mem_cons_self) hw
  · exact fun hr => ⟨[], w, ws, rfl, by simp, hw, hr⟩

/-- R74: with every offset in range, `r` blames the end of the store, if the command stores. -/
def StoreRefused (s : State) (ws : List Word) (e : Option Nat) (r : Refusal) : Prop :=
  (∀ w ∈ ws, s.offsetOk w) ∧ ∃ n, e = some n ∧ ¬ s.memOk n ∧ r = .memLimit n

@[simp] theorem storeRefused_none {ws : List Word} : ¬ StoreRefused s ws none r := by
  rintro ⟨-, n, h, -⟩
  cases h

@[simp] theorem storeRefused_nil_some {n : Nat} :
    StoreRefused s [] (some n) r ↔ ¬ s.memOk n ∧ r = .memLimit n := by
  rw [StoreRefused, and_iff_right (by simp)]
  simp only [Option.some.injEq, exists_eq_left']

theorem storeRefused_cons_of_ok {w : Word} {ws : List Word} {e : Option Nat} (hw : s.offsetOk w) :
    StoreRefused s (w :: ws) e r ↔ StoreRefused s ws e r := by
  rw [StoreRefused, List.forall_mem_cons, and_iff_right hw, StoreRefused]

theorem not_storeRefused_cons {w : Word} {ws : List Word} {e : Option Nat} (hw : ¬ s.offsetOk w) :
    ¬ StoreRefused s (w :: ws) e r := fun h => hw (h.1 w List.mem_cons_self)

/-- R73, D11. -/
theorem execMload_refused_iff : exec .mload s = .refused r ↔ OffsetRefused s (offsetWords s .mload) r := by
  rw [exec, offsetWords]
  obtain ⟨h, e⟩ | ⟨p, l, hs, ⟨ho, e⟩ | ⟨_, hl, hlt, e⟩⟩ := execMload_cases s <;> rw [e]
  · rw [List.length_eq_zero_iff.mp (Nat.lt_one_iff.mp h)]
    exact iff_of_false nofun offsetRefused_nil
  · rw [hs, List.take_succ_cons, offsetRefused_cons_of_ok ho]
    exact iff_of_false nofun offsetRefused_nil
  · rw [hs, List.take_succ_cons, offsetRefused_cons_of_not_ok (not_offsetOk hl hlt), refused_eq_iff]

/-- R73, D11: the offset is blamed before the size. -/
theorem execKeccak256_refused_iff :
    exec .keccak256 s = .refused r ↔ OffsetRefused s (offsetWords s .keccak256) r := by
  rw [exec, offsetWords]
  obtain ⟨h, e⟩ | ⟨p, n, l, hs, h⟩ := execKeccak256_cases s
  · rw [e, if_pos h]
    exact iff_of_false nofun offsetRefused_nil
  · rw [if_neg (by simp [State.size_eq, hs]), hs, List.take_succ_cons, List.take_succ_cons, List.take_zero]
    obtain ⟨ho, hn, e⟩ | ⟨_, hl, hlt, e⟩ | ⟨_, ho, hl, hlt, e⟩ := h <;> rw [e]
    · rw [offsetRefused_cons_of_ok ho, offsetRefused_cons_of_ok hn]
      exact iff_of_false nofun offsetRefused_nil
    · rw [offsetRefused_cons_of_not_ok (not_offsetOk hl hlt), refused_eq_iff]
    · rw [offsetRefused_cons_of_ok ho, offsetRefused_cons_of_not_ok (not_offsetOk hl hlt), refused_eq_iff]

/-- R73, R74: a store of `n` bytes at the offset on top; the offset is blamed before the end of the store. -/
theorem storeOp_refused_iff {f : Word → Bytes} {n : Nat} (hf : ∀ v, (f v).length = n) :
    storeOp f s = .refused r ↔
      OffsetRefused s (if s.size < 2 then [] else s.stack.take 1) r ∨
      StoreRefused s (if s.size < 2 then [] else s.stack.take 1)
        (if s.size < 2 then none else s.stack[0]?.map fun p => U p + n) r := by
  obtain ⟨h, e⟩ | ⟨p, v, l, hs, h⟩ := storeOp_cases f s
  · rw [e, if_pos h, if_pos h, or_iff_right offsetRefused_nil]
    exact iff_of_false nofun storeRefused_none
  · have h2 : ¬ s.size < 2 := by simp [State.size_eq, hs]
    rw [if_neg h2, if_neg h2, hs, List.take_succ_cons, List.take_zero, List.getElem?_cons_zero, Option.map_some]
    rw [hf v] at h
    obtain ⟨ho, hm, e⟩ | ⟨_, hl, hlt, e⟩ | ⟨_, ho, hl, hlt, e⟩ := h <;> rw [e]
    · rw [offsetRefused_cons_of_ok ho, or_iff_right offsetRefused_nil, storeRefused_cons_of_ok ho,
        storeRefused_nil_some]
      exact iff_of_false nofun fun h => h.1 hm
    · rw [or_iff_left (not_storeRefused_cons (not_offsetOk hl hlt)), offsetRefused_cons_of_not_ok (not_offsetOk hl hlt),
        refused_eq_iff]
    · rw [offsetRefused_cons_of_ok ho, or_iff_right offsetRefused_nil, storeRefused_cons_of_ok ho,
        storeRefused_nil_some, and_iff_right (not_memOk hl hlt), refused_eq_iff]

theorem execMstore_refused_iff : exec .mstore s = .refused r ↔
    OffsetRefused s (offsetWords s .mstore) r ∨ StoreRefused s (offsetWords s .mstore) (storeEnd s .mstore) r :=
  storeOp_refused_iff be32_length

theorem execMstore8_refused_iff : exec .mstore8 s = .refused r ↔
    OffsetRefused s (offsetWords s .mstore8) r ∨ StoreRefused s (offsetWords s .mstore8) (storeEnd s .mstore8) r :=
  storeOp_refused_iff (n := 1) (f := fun value => [value.setWidth 8]) fun _ => rfl

/-! ## The refusals of every command -/

/-- R18: `r` names an operand or a bound for which the spec gives the command no meaning. -/
def NoMeaning (i : Instr) (s : State) (r : Refusal) : Prop :=
  (∃ d, i = .stkPeek d ∧ s.size ≠ 0 ∧ d < 1 ∧ r = .peekDepth d) ∨
  (∃ d, i = .stkSwap d ∧ s.size ≠ 0 ∧ d < 2 ∧ r = .swapDepth d) ∨
  (∃ k, (i = .stoLoad k ∨ ∃ v, i = .stoStore k v) ∧ ¬ s.keyOk k ∧ r = .keyRange k) ∨
  OffsetRefused s (offsetWords s i) r ∨ StoreRefused s (offsetWords s i) (storeEnd s i) r

theorem noMeaning_stkPeek {d : Int} :
    NoMeaning (.stkPeek d) s r ↔ s.size ≠ 0 ∧ d < 1 ∧ r = .peekDepth d := by
  simp [NoMeaning, offsetWords, storeEnd]

theorem noMeaning_stkSwap {d : Int} :
    NoMeaning (.stkSwap d) s r ↔ s.size ≠ 0 ∧ d < 2 ∧ r = .swapDepth d := by
  simp [NoMeaning, offsetWords, storeEnd]

theorem noMeaning_stoStore {k : Int} {v : Bytes} :
    NoMeaning (.stoStore k v) s r ↔ ¬ s.keyOk k ∧ r = .keyRange k := by
  simp [NoMeaning, offsetWords, storeEnd]

theorem noMeaning_stoLoad {k : Int} : NoMeaning (.stoLoad k) s r ↔ ¬ s.keyOk k ∧ r = .keyRange k := by
  simp [NoMeaning, offsetWords, storeEnd]

/-- Without a depth or a key only a Word or the end of a store can be to blame. -/
theorem noMeaning_iff_offset_or_store (hi : i.hasDepthOrKey = false) :
    NoMeaning i s r ↔
      OffsetRefused s (offsetWords s i) r ∨ StoreRefused s (offsetWords s i) (storeEnd s i) r := by
  constructor
  · rintro (⟨d, rfl, -⟩ | ⟨d, rfl, -⟩ | ⟨k, rfl | ⟨v, rfl⟩, -⟩ | h)
    case inr.inr.inr => exact h
    all_goals cases hi
  · exact fun h => .inr (.inr (.inr h))

theorem noMeaning_iff_offsetRefused (hi : i.hasDepthOrKey = false) (he : storeEnd s i = none) :
    NoMeaning i s r ↔ OffsetRefused s (offsetWords s i) r := by
  rw [noMeaning_iff_offset_or_store hi, he, or_iff_left storeRefused_none]

theorem noMeaning_iff_not_memOk {n : Nat} (hi : i.hasDepthOrKey = false) (hw : offsetWords s i = [])
    (he : storeEnd s i = some n) : NoMeaning i s r ↔ ¬ s.memOk n ∧ r = .memLimit n := by
  rw [noMeaning_iff_offset_or_store hi, hw, he, or_iff_right offsetRefused_nil, storeRefused_nil_some]

/-- A command that is never refused has no depth, no key, no offset or size, and stores nothing. -/
theorem no_depth_key_word_or_store_of_not_mayBeRefused (h : i.mayBeRefused = false) (s : State) :
    i.hasDepthOrKey = false ∧ offsetWords s i = [] ∧ storeEnd s i = none := by
  cases i <;> cases h <;> exact ⟨rfl, rfl, rfl⟩

theorem not_noMeaning (h : i.mayBeRefused = false) : ¬ NoMeaning i s r := by
  obtain ⟨hi, hw, he⟩ := no_depth_key_word_or_store_of_not_mayBeRefused h s
  rw [noMeaning_iff_offsetRefused hi he, hw]
  exact offsetRefused_nil

/-- The refusals of every command: none, or those of its own operation. -/
theorem exec_refused_iff : exec i s = .refused r ↔ NoMeaning i s r := by
  cases hi : i.mayBeRefused with
  | false =>
    obtain ⟨t, e⟩ := exec_answers hi s
    exact iff_of_false (by simp [e]) (not_noMeaning hi)
  | true =>
    cases i
    case stkPeek => exact execStkPeek_refused_iff.trans noMeaning_stkPeek.symm
    case stkSwap => exact execStkSwap_refused_iff.trans noMeaning_stkSwap.symm
    case stoStore => exact execStoStore_refused_iff.trans noMeaning_stoStore.symm
    case stoLoad => exact execStoLoad_refused_iff.trans noMeaning_stoLoad.symm
    case mload => exact execMload_refused_iff.trans (noMeaning_iff_offsetRefused rfl rfl).symm
    case keccak256 => exact execKeccak256_refused_iff.trans (noMeaning_iff_offsetRefused rfl rfl).symm
    case mstore => exact execMstore_refused_iff.trans (noMeaning_iff_offset_or_store rfl).symm
    case mstore8 => exact execMstore8_refused_iff.trans (noMeaning_iff_offset_or_store rfl).symm
    case memStore | memStoreB | memStoreW =>
      exact storePort_refused_iff.trans (noMeaning_iff_not_memOk rfl rfl rfl).symm
    all_goals cases hi

/-- Settles O17: `NoMeaning` is the list of reasons of the statement, in its order. -/
theorem refusalsExactlyWhereThereIsNoMeaning : Obligations.RefusalsExactlyWhereThereIsNoMeaning := by
  intro i s r
  exact exec_refused_iff

end Machine
end Sys2Proof

/-! PROOFS. The state (10_state.md): a step takes the command presented (O6), construction (O8, O9), the invariant
(O10), what moves pc, Memory, Storage and the hash port (O19, O20, O22), the status (O59), and that no command reads a
port (O23). Whole-machine facts go through `exec_effect`. -/

namespace Sys2Proof
namespace Machine

variable {s t : State} {i : Instr}

/-- Settles O6: both reads of a step, of the port and of the decoder, are given. -/
theorem stepPerformsTheDecodedCommand : Obligations.StepPerformsTheDecodedCommand := by
  intro s c l i hc hd
  simp only [step, fetch, hc, hd]

/-! ## Construction: the snapshot -/

/-- R41: the stores of a snapshot, in order, on a Storage. -/
def Storage.load (st : Storage) (pairs : List (Int × Vector Byte 32)) : Storage :=
  pairs.foldl (fun st c => st.write c.1 c.2.toList) st

theorem Storage.load_cons (st : Storage) (c : Int × Vector Byte 32) (pairs : List (Int × Vector Byte 32)) :
    st.load (c :: pairs) = (st.write c.1 c.2.toList).load pairs := rfl

theorem State.construct_eq (params : Config) (code : Bytes) (base : Option Nat) (pairs : List (Int × Vector Byte 32)) :
    State.construct params code base pairs =
      { State.reset with code, params, sto := Storage.load { base, cells := [] } pairs } := rfl

theorem Storage.load_read_of_not_listed {st : Storage} {pairs : List (Int × Vector Byte 32)} {k : Int}
    (h : ∀ c ∈ pairs, c.1 ≠ k) : (st.load pairs).read k = st.read k := by
  induction pairs generalizing st with
  | nil => rfl
  | cons c pairs ih =>
    obtain ⟨hc, hp⟩ := List.forall_mem_cons.mp h
    rw [Storage.load_cons, ih hp, Storage.read_write, if_neg hc.symm]

theorem Storage.load_read_of_mem {st : Storage} {pairs : List (Int × Vector Byte 32)}
    (hn : (pairs.map Prod.fst).Nodup) {c : Int × Vector Byte 32} (hc : c ∈ pairs) :
    (st.load pairs).read c.1 = c.2.toList := by
  induction pairs generalizing st with
  | nil => cases hc
  | cons a pairs ih =>
    obtain ⟨ha, hn⟩ := List.nodup_cons.mp hn
    rw [Storage.load_cons]
    rcases List.mem_cons.mp hc with rfl | hc
    · have hp : ∀ b ∈ pairs, b.1 ≠ c.1 := fun b hb e => ha (e ▸ List.mem_map_of_mem hb)
      rw [Storage.load_read_of_not_listed hp, Storage.read_write, if_pos rfl]
    · exact ih hn hc

theorem Storage.load_wf {st : Storage} (h : st.wf) (pairs : List (Int × Vector Byte 32)) : (st.load pairs).wf := by
  induction pairs generalizing st with
  | nil => exact h
  | cons c pairs ih => exact ih (Storage.write_wf h c.1 c.2.length_toList)

theorem Memory.read_of_mlen_zero {m : Memory} (h : m.mlen = 0) (a n : Nat) : m.read a n = List.replicate n 0 :=
  List.ext_getElem (by simp) fun k h1 _ => by
    rw [Memory.read_getElem _ _ _ _ h1, Memory.readByte_of_le (by omega), List.getElem_replicate]

/-- Settles O8: the snapshot is read back by induction on its list; the other fields are those of `State.reset`. -/
theorem constructionGivesTheResetValues : Obligations.ConstructionGivesTheResetValues := by
  refine ⟨fun params code base pairs => ?_, rfl⟩
  rw [State.construct_eq]
  refine ⟨rfl, rfl, Memory.read_of_mlen_zero rfl, rfl, rfl, rfl, rfl, rfl, rfl, fun k hk => ?_,
    fun hn c hc => Storage.load_read_of_mem hn hc⟩
  rw [Storage.load_read_of_not_listed hk]
  constructor
  · rintro rfl; rfl
  · rintro n rfl; rfl

theorem Memory.empty_wf : Memory.wf { cells := [], mlen := 0 } := by decide

theorem Storage.empty_wf (base : Option Nat) : Storage.wf { base, cells := [] } := ⟨⟨.nil, by simp⟩, by simp⟩

theorem inv_construct (params : Config) (code : Bytes) (base : Option Nat) (pairs : List (Int × Vector Byte 32)) :
    (State.construct params code base pairs).Inv where
  size_le := Nat.zero_le _
  mem_wf := Memory.empty_wf
  sto_wf := Storage.load_wf (Storage.empty_wf base) pairs
  pc_le _ := Nat.zero_le _
  mlen_le _ _ := Nat.zero_le _

/-- Settles O9: only Storage is more than a literal, and every store of the snapshot keeps it canonical. -/
theorem constructionMeetsTheInvariant : Obligations.ConstructionMeetsTheInvariant :=
  ⟨inv_construct, inv_construct {} [] none []⟩

/-! ## The invariant is kept -/

theorem Effect.keeps_size_le (h : Effect i s t) (hs : s.size ≤ Config.stackCap) : t.size ≤ Config.stackCap := by
  cases h with
  | error | storage => exact hs
  | stack l r h hl => simp only [State.answered_size, State.withStack_size]; omega
  | immediate _ _ _ hn | zero _ hn =>
    simp only [State.answered_size, State.withPc_size, State.withStack_size, List.length_cons, ← State.size_eq]
    omega
  | memory a v l _ _ hl => exact hl.trans hs

theorem Effect.keeps_mem_wf (h : Effect i s t) (hm : s.mem.wf) : t.mem.wf := by
  cases h with
  | error | stack | immediate | zero | storage => exact hm
  | memory a v => exact Memory.write_wf hm a v

/-- R31: it needs the 32 bytes that the decoder asks of STO.STORE (log 13). -/
theorem Effect.keeps_sto_wf (h : Effect i s t) (hw : i.wellFormed = true) (hs : s.sto.wf) : t.sto.wf := by
  cases h with
  | error | stack | immediate | zero | memory => exact hs
  | storage k v hi =>
    subst hi
    exact Storage.write_wf hs k (wellFormed_stoStore.mp hw)

theorem Effect.code_params (h : Effect i s t) : t.code = s.code ∧ t.params = s.params := by
  cases h <;> exact ⟨rfl, rfl⟩

/-- R27: PUSHN tests the code bound, and PUSH0 moves nothing when PUSH0_PC_STEP is 0. -/
theorem Effect.keeps_pc_le (h : Effect i s t) (h0 : s.params.push0PcStep = 0) (hp : s.pc ≤ s.code.length) :
    t.pc ≤ s.code.length := by
  cases h with
  | error | stack | memory | storage => exact hp
  | immediate _ _ _ _ hn => exact hn
  | zero => simpa [h0] using hp

theorem Effect.keeps_memOk (h : Effect i s t) (hm : s.memOk s.mem.mlen) : s.memOk t.mem.mlen := by
  cases h with
  | error | stack | immediate | zero | storage => exact hm
  | memory a v _ _ hv =>
    exact fun limit hl => (s.mem.write_mlen a v).trans_le (max_le (hm limit hl) (hv limit hl))

theorem Effect.keeps_inv (h : Effect i s t) (hw : i.wellFormed = true) (hi : s.Inv) : t.Inv := by
  obtain ⟨hcode, hparams⟩ := h.code_params
  refine ⟨h.keeps_size_le hi.size_le, h.keeps_mem_wf hi.mem_wf, h.keeps_sto_wf hw hi.sto_wf, ?_, ?_⟩
  · rw [hcode, hparams]
    exact fun h0 => h.keeps_pc_le h0 (hi.pc_le h0)
  · rw [State.memOk, hparams]
    exact h.keeps_memOk hi.mlen_le

/-- The invariant does not speak of the command port. -/
theorem State.Inv.withCmds (h : s.Inv) (l : List Command) : (s.withCmds l).Inv :=
  ⟨h.size_le, h.mem_wf, h.sto_wf, h.pc_le, h.mlen_le⟩

/-- Settles O10: a step is idle or has an effect of a well-formed command, and every effect keeps the invariant. -/
theorem stepKeepsTheInvariant : Obligations.StepKeepsTheInvariant := by
  intro s t hi h
  obtain rfl | ⟨_, l, _, -, -, hw, he⟩ := step_effect h
  · exact hi
  · exact he.keeps_inv hw (hi.withCmds l)

/-! ## What moves pc, Memory, Storage and the hash port -/

/-- Settles O19: of the six effects two move pc. -/
theorem onlyPushesMovePc : Obligations.OnlyPushesMovePc := by
  intro i s t h
  cases exec_effect h with
  | error | stack | memory | storage => exact .inl rfl
  | immediate n _ hi => exact .inr (.inl ⟨n, hi, rfl, rfl⟩)
  | zero hi => exact .inr (.inr ⟨hi, rfl, rfl⟩)

/-- Settles O20: of the six effects one writes Memory and one writes Storage. -/
theorem onlyStoresChangeMemoryAndStorage : Obligations.OnlyStoresChangeMemoryAndStorage := by
  intro i s t h
  cases exec_effect h with
  | error | stack | immediate | zero => exact ⟨le_rfl, absurd rfl, absurd rfl⟩
  | memory a v _ hi =>
    exact ⟨(le_max_left _ _).trans_eq (s.mem.write_mlen a v).symm, fun _ => ⟨hi, rfl⟩, absurd rfl⟩
  | storage k v hi => exact ⟨le_rfl, absurd rfl, fun _ => ⟨k, v, hi⟩⟩

theorem Effect.eq_keccak256_of_hashPort (h : Effect i s t) (ht : t.hashPort ≠ none) : i = .keccak256 := by
  cases h with
  | error | immediate | zero | memory | storage => exact absurd rfl ht
  | stack _ _ _ _ hh => exact hh ht

/-- R191, D13: the bytes of the Word made of a digest. -/
theorem wordOfBytes_digest_byte (v : Vector Byte 32) {k : Nat} (hk : k < 32) :
    (wordOfBytes v.toList).extractLsb' (248 - 8 * k) 8 = v[k] := by
  rw [wordOfBytes_byte v.length_toList k (by simpa using hk), Vector.getElem_toList]

/-- Settles O22: only the effect of KECCAK256 leaves a request, and of its cases only the one that answers OK does. -/
theorem hashPortIsUsedByKeccakOnly : Obligations.HashPortIsUsedByKeccakOnly := by
  intro i s t data h hd
  obtain rfl := (exec_effect h).eq_keccak256_of_hashPort (by simp [hd])
  refine ⟨rfl, ?_⟩
  rw [exec] at h
  obtain ⟨-, e⟩ | ⟨p, n, l, hs, ⟨-, -, e⟩ | ⟨_, -, -, e⟩ | ⟨_, -, -, -, e⟩⟩ := execKeccak256_cases s <;>
    rw [e] at h <;> cases h <;> cases hd
  exact ⟨p, n, l, _, hs, rfl, rfl, fun k hk => wordOfBytes_digest_byte _ hk⟩

/-! ## The status of a response -/

/-- R43, R306: every answer is OK or an error of a kind that is raised. -/
theorem Effect.rspPort_cases (h : Effect i s t) :
    (∃ r, t.rspPort = some (.ok r)) ∨ ∃ e, e.unreachable = false ∧ t.rspPort = some (.error e) := by
  cases h with
  | error e he => exact .inr ⟨e, he, rfl⟩
  | stack | immediate | zero | memory | storage => exact .inl ⟨_, rfl⟩

theorem errorOf_next_of_ok {r : Result} (h : t.rspPort = some (.ok r)) : errorOf (.next t) = none := by
  simp only [errorOf, h]

theorem errorOf_next_of_error {e : ErrorKind} (h : t.rspPort = some (.error e)) : errorOf (.next t) = some e := by
  simp only [errorOf, h]

/-- D5: the numbers of the kinds that are raised. -/
theorem ErrorKind.code_of_raised {e : ErrorKind} (h : e.unreachable = false) : e.code ∈ [1, 2, 3, 4, 8] := by
  cases e with
  | stackOverflow | stackUnderflow | emptyStack | indexOutOfRange | pushSizeExceedsCodeSize => decide
  | invalidPushSize | invalidDupSize | invalidSwapSize => cases h

theorem ErrorKind.code_ne_zero (e : ErrorKind) : e.code ≠ 0 := by cases e <;> decide

/-- Settles O59: the numbers are those of `ErrorKind.code`, and an answer is OK or an error that is raised. -/
theorem responseStatusNumbers : Obligations.ResponseStatusNumbers := by
  refine ⟨fun _ => rfl, rfl, rfl, rfl, rfl, rfl, rfl, rfl, rfl, fun i s t h => ?_⟩
  rw [h]
  obtain ⟨r, hr⟩ | ⟨e, he, hr⟩ := (exec_effect h).rspPort_cases
  · exact ⟨_, hr, by simp [errorOf_next_of_ok hr, Response.status], List.mem_cons_self⟩
  · rw [errorOf_next_of_error hr]
    exact ⟨_, hr, iff_of_false e.code_ne_zero nofun, List.mem_cons_of_mem _ (ErrorKind.code_of_raised he)⟩

/-! ## The ports are read by no command

`s.withPorts c r h` is `s` with anything on its three ports. Each shared operation gives on it the outcome it gives on
`s`, up to the commands still waiting. -/

/-- The state with the three ports replaced. -/
def State.withPorts (s : State) (c : List Command) (r : Option Response) (h : Option Bytes) : State :=
  { s with cmdPort := c, rspPort := r, hashPort := h }

section Ports

variable (c : List Command) (r : Option Response) (h : Option Bytes)

@[simp] theorem State.withPorts_stack : (s.withPorts c r h).stack = s.stack := rfl
@[simp] theorem State.withPorts_mem : (s.withPorts c r h).mem = s.mem := rfl
@[simp] theorem State.withPorts_sto : (s.withPorts c r h).sto = s.sto := rfl
@[simp] theorem State.withPorts_pc : (s.withPorts c r h).pc = s.pc := rfl
@[simp] theorem State.withPorts_code : (s.withPorts c r h).code = s.code := rfl
@[simp] theorem State.withPorts_params : (s.withPorts c r h).params = s.params := rfl
@[simp] theorem State.withPorts_size : (s.withPorts c r h).size = s.size := rfl

/-! The Stack and Memory primitives keep the ports and do not read them. -/

theorem push_withPorts (v : Word) :
    push v (s.withPorts c r h) = (push v s).map fun t => t.withPorts c r h := by
  unfold push
  rw [State.withPorts_size]
  split <;> rfl

theorem pop_withPorts :
    pop (s.withPorts c r h) = (pop s).map fun vt => (vt.1, vt.2.withPorts c r h) := by
  unfold pop
  rw [State.withPorts_stack]
  split <;> rfl

theorem peek_withPorts (d : Nat) : peek d (s.withPorts c r h) = peek d s := rfl

theorem swap_withPorts (d : Nat) :
    swap d (s.withPorts c r h) = (swap d s).map fun t => t.withPorts c r h := by
  unfold swap
  rw [State.withPorts_stack]
  split
  · rfl
  · split <;> rfl

theorem wordToOffset_withPorts (w : Word) : wordToOffset (s.withPorts c r h) w = wordToOffset s w := rfl

theorem storeMem_withPorts (a : Nat) (v : Bytes) :
    storeMem (s.withPorts c r h) a v = (storeMem s a v).map fun t => t.withPorts c r h := by
  unfold storeMem
  rw [State.withPorts_params]
  split
  · rfl
  · split <;> rfl

theorem operandBytes_withPorts (n : Nat) : operandBytes (s.withPorts c r h) n = operandBytes s n := rfl

end Ports

/-- An outcome with the commands still waiting in its next state replaced. -/
def withWaiting (c : List Command) : Out → Out
  | .next t => .next (t.withCmds c)
  | .fault f => .fault f
  | .refused r => .refused r

/-- An operation whose outcome depends on no port. -/
def PortFree (op : State → Out) : Prop :=
  ∀ s c r h, op (s.withPorts c r h) = withWaiting c (op s)

theorem complete_withPorts (c : List Command) (r : Option Response) (h : Option Bytes) (x : Except ErrorKind State) :
    complete (s.withPorts c r h) .none (x.map fun t => t.withPorts c r h) = withWaiting c (complete s .none x) := by
  cases x <;> rfl

theorem portFree_unaryOp (f : Word → Word) : PortFree (unaryOp f) := fun s c r h => by
  rw [unaryOp, State.withPorts_stack, unaryOp]
  split <;> rfl

theorem portFree_binaryXY (f : Word → Word → Word) : PortFree (binaryXY f) := fun s c r h => by
  rw [binaryXY, State.withPorts_stack, binaryXY]
  split <;> rfl

theorem portFree_binaryTop (f : Word → Word → Word) : PortFree (binaryTop f) := fun s c r h => by
  rw [binaryTop, State.withPorts_stack, binaryTop]
  split <;> rfl

theorem portFree_ternaryTop (f : Word → Word → Word → Word) : PortFree (ternaryTop f) := fun s c r h => by
  rw [ternaryTop, State.withPorts_stack, ternaryTop]
  split <;> rfl

theorem portFree_storeOp (f : Word → Bytes) : PortFree (storeOp f) := by
  intro s c r h
  unfold storeOp
  simp only [State.withPorts_stack, wordToOffset_withPorts, storeMem_withPorts]
  split
  next value _ _ =>
    split
    · rfl
    · next p _ => cases storeMem s p (f value) <;> rfl
  · rfl

theorem portFree_storePort (v : Bytes) (p : Nat) : PortFree (storePort v p) := by
  intro s c r h
  unfold storePort
  rw [storeMem_withPorts]
  cases storeMem s p v <;> rfl

theorem portFree_pushN (n : Nat) : PortFree (pushN n) := by
  intro s c r h
  unfold pushN
  rw [push_withPorts, operandBytes_withPorts, State.withPorts_pc, State.withPorts_code]
  split
  · rfl
  · cases push (wordOfBytes (operandBytes s n)) s <;> rfl

theorem portFree_dupN (n : Nat) : PortFree (dupN n) := by
  intro s c r h
  unfold dupN
  rw [peek_withPorts]
  cases peek n s with
  | error => rfl
  | ok v => simp only [push_withPorts, complete_withPorts]

theorem portFree_swapN (n : Nat) : PortFree (swapN n) := by
  intro s c r h
  rw [swapN, swap_withPorts, complete_withPorts, swapN]

theorem portFree_execMload : PortFree execMload := by
  intro s c r h
  unfold execMload
  rw [State.withPorts_stack]
  split
  · rw [wordToOffset_withPorts]
    split <;> rfl
  · rfl

theorem portFree_execKeccak256 : PortFree execKeccak256 := by
  intro s c r h
  unfold execKeccak256
  rw [State.withPorts_stack]
  split
  · simp only [wordToOffset_withPorts]
    split <;> rfl
  · rfl

theorem portFree_execPop : PortFree execPop := by
  intro s c r h
  rw [execPop, pop_withPorts, execPop]
  cases pop s <;> rfl

theorem portFree_execStkPop : PortFree execStkPop := by
  intro s c r h
  rw [execStkPop, pop_withPorts, execStkPop]
  cases pop s <;> rfl

theorem portFree_execPush0 : PortFree execPush0 := by
  intro s c r h
  rw [execPush0, push_withPorts, execPush0]
  cases push (W 0) s <;> rfl

theorem portFree_execStkPush (v : Word) : PortFree (execStkPush v) := by
  intro s c r h
  rw [execStkPush, push_withPorts, complete_withPorts, execStkPush]

theorem portFree_execStkPeek (d : Int) : PortFree (execStkPeek d) := by
  intro s c r h
  unfold execStkPeek
  rw [State.withPorts_size, peek_withPorts]
  split
  · rfl
  · cases peek d.toNat s <;> rfl

theorem portFree_execStkSwap (d : Int) : PortFree (execStkSwap d) := by
  intro s c r h
  unfold execStkSwap
  rw [State.withPorts_size, swap_withPorts, complete_withPorts]
  split <;> rfl

theorem portFree_execStoStore (k : Int) (v : Bytes) : PortFree (execStoStore k v) := by
  intro s c r h
  unfold execStoStore
  rw [State.withPorts_params]
  split <;> rfl

theorem portFree_execStoLoad (k : Int) : PortFree (execStoLoad k) := by
  intro s c r h
  unfold execStoLoad
  rw [State.withPorts_params]
  split <;> rfl

/-- R20, R45: no command reads a port. -/
theorem portFree_exec (i : Instr) : PortFree (exec i) := by
  cases i
  case iszero | not => exact portFree_unaryOp _
  case addmod | mulmod => exact portFree_ternaryTop _
  case signextend | byte | shl | shr | sar => exact portFree_binaryTop _
  case add | mul | sub | div | sdiv | mod | smod | exp | lt | gt | slt | sgt | eq | and | or | xor =>
    exact portFree_binaryXY _
  case keccak256 => exact portFree_execKeccak256
  case mload => exact portFree_execMload
  case mstore | mstore8 => exact portFree_storeOp _
  case memStore | memStoreB | memStoreW => exact portFree_storePort _ _
  case memLoad | memLoadB | memLoadW | stkSize => exact fun _ _ _ _ => rfl
  case pop => exact portFree_execPop
  case push0 => exact portFree_execPush0
  case stkPush v => exact portFree_execStkPush v
  case stkPop => exact portFree_execStkPop
  case stkPeek d => exact portFree_execStkPeek d
  case stkSwap d => exact portFree_execStkSwap d
  case stoStore k v => exact portFree_execStoStore k v
  case stoLoad k => exact portFree_execStoLoad k
  case dup1 | dup2 | dup3 | dup4 | dup5 | dup6 | dup7 | dup8 | dup9 | dup10 | dup11 | dup12 | dup13 | dup14 | dup15
      | dup16 => exact portFree_dupN _
  case swap1 | swap2 | swap3 | swap4 | swap5 | swap6 | swap7 | swap8 | swap9 | swap10 | swap11 | swap12 | swap13
      | swap14 | swap15 | swap16 => exact portFree_swapN _
  all_goals exact portFree_pushN _

/-! ## The observation is the whole state but the ports -/

/-- R45: a Memory in canonical form is determined by its length and its bytes. -/
theorem Memory.eq_of_read_eq {m m' : Memory} (h : m.wf) (h' : m'.wf) (hl : m.mlen = m'.mlen)
    (hr : m.read 0 m.mlen = m'.read 0 m'.mlen) : m = m' := by
  refine Memory.ext_readByte h h' hl fun a ha => ?_
  have hb : (m.read 0 m.mlen)[a]? = (m'.read 0 m'.mlen)[a]? := by rw [hr]
  rw [List.getElem?_eq_getElem (by simpa), List.getElem?_eq_getElem (by simpa [← hl])] at hb
  simpa [Memory.read_getElem] using hb

/-- States with one observation, one code and the same parameters differ in their ports alone. -/
theorem eq_withPorts_of_observe {s' : State} (hs : s.Inv) (hs' : s'.Inv) (ho : s.observe = s'.observe)
    (hcode : s.code = s'.code) (hparams : s.params = s'.params) :
    s' = s.withPorts s'.cmdPort s'.rspPort s'.hashPort := by
  obtain ⟨-, hstk, hlen, hread, hsto, hpc⟩ := Observation.mk.inj ho
  have hmem := Memory.eq_of_read_eq hs.mem_wf hs'.mem_wf hlen hread
  have hstack := List.reverse_injective hstk
  cases s
  cases s'
  simp_all [State.withPorts]

/-- Settles O23: the states differ in their ports alone, and no command reads a port. -/
theorem observationDeterminesTheBehaviour : Obligations.ObservationDeterminesTheBehaviour := by
  intro i s s' hs hs' ho hcode hparams
  have he : exec i s' = withWaiting s'.cmdPort (exec i s) := by
    rw [eq_withPorts_of_observe hs hs' ho hcode hparams]
    exact portFree_exec i s _ _ _
  constructor
  · intro t ht
    exact ⟨t.withCmds s'.cmdPort, by rw [he, ht, withWaiting], rfl, rfl, rfl⟩
  · intro r hr
    rw [he, hr, withWaiting]

end Machine
end Sys2Proof

/-! PROOFS. What no step writes (20_memory.md): code, the parameters and the commands still waiting (O21). -/

namespace Sys2Proof
namespace Machine

variable {s t : State} {i : Instr}

/-- R42: no command writes the command port; only `fetch` takes from it. -/
theorem Effect.cmdPort_eq (h : Effect i s t) : t.cmdPort = s.cmdPort := by
  cases h <;> rfl

/-- Settles O21: an idle step has nothing to take and keeps the state; any other is an effect of a command on the state
with that command taken, and no effect writes code, the parameters or the command port. -/
theorem codeIsImmutable : Obligations.CodeIsImmutable := by
  intro s t h
  obtain ⟨hc, e⟩ | ⟨_, _, _, -, -, e⟩ | ⟨c, l, i, hc, -, e⟩ := step_cases s <;> rw [e] at h
  · cases h
    exact ⟨rfl, rfl, by rw [hc, List.tail_nil]⟩
  · cases h
  · have he := exec_effect h
    obtain ⟨hcode, hparams⟩ := he.code_params
    exact ⟨hcode, hparams, by rw [he.cmdPort_eq, State.withCmds_cmdPort, hc, List.tail_cons]⟩

end Machine
end Sys2Proof

/-! PROOFS. The encoding (30_encoding.md): encode and decode agree (O1, O2), the payload fields (O3), the reserved
selects (O4) and the numbers of the opcode map (O5). Everything goes through the row of a select. -/

namespace Sys2Proof

variable {c : Command} {i : Instr} {r : OpRow} {sel : BitVec 9}

/-! ## The rows of the opcode map -/

/-- R91, R92, R97: the row of a command's select builds the command from its own encoding. -/
theorem row_of_encode (i : Instr) : (rowOf (encode i).sel).map (fun r => r.build (encode i)) = some i := by
  cases i <;> rfl

/-- R96, R97: a row builds a command of its own select, from any payload fields. -/
theorem sel_of_row (hr : r ∈ opcodeRows) (c : Command) : (r.build c).sel = r.sel := by
  have h : opcodeRows.all (fun r => (r.build c).sel == r.sel) = true := rfl
  exact eq_of_beq (List.all_eq_true.mp h r hr)

/-- R42: STO.STORE's length is the one check a row makes. -/
theorem wellFormed_of_row (hr : r ∈ opcodeRows) (hv : c.argVal.length = 32) : (r.build c).wellFormed = true := by
  have h : opcodeRows.all (fun r => (r.build c).wellFormed) = ((c.argVal.length == 32) && true) := rfl
  rw [hv] at h
  exact List.all_eq_true.mp h r hr

/-- R96, R97: the selects of the map, as runs of consecutive numbers. -/
theorem opcodeRows_selects : opcodeRows.map (fun r => r.sel.toNat) =
    List.range' 0x001 11 ++ List.range' 0x010 14 ++ [0x020] ++ List.range' 0x050 4 ++ List.range' 0x05F 65 ++
      List.range' 0x100 5 ++ List.range' 0x110 6 ++ List.range' 0x120 2 := by
  decide

/-- A select has no row exactly when its number is not among those of the map. -/
theorem rowOf_eq_none_iff : rowOf sel = none ↔ sel.toNat ∉ opcodeRows.map fun r => r.sel.toNat := by
  simp [rowOf, BitVec.toNat_inj]

/-- R98: the reserved selects are the numbers between the runs. -/
theorem rowOf_eq_none_iff_reserved : rowOf sel = none ↔ Machine.reservedSelect sel.toNat := by
  have := sel.isLt
  rw [rowOf_eq_none_iff, opcodeRows_selects]
  simp only [List.mem_append, List.mem_range'_1, List.mem_singleton]
  omega

/-! ## What the decoder answers -/

theorem decode_of_row (hr : (rowOf c.sel).map (fun r => r.build c) = some i) (hw : i.wellFormed = true) :
    decode c = .ok i := by
  obtain ⟨r, h, rfl⟩ := Option.map_eq_some_iff.mp hr
  simp only [decode, h, if_pos hw]

theorem decode_of_reserved (h : Machine.reservedSelect c.sel.toNat) : decode c = .error (.invalidSelect c.sel) := by
  simp only [decode, rowOf_eq_none_iff_reserved.mpr h]

theorem decode_encode (hw : i.wellFormed = true) : decode (encode i) = .ok i := decode_of_row (row_of_encode i) hw

/-- Settles O1: the row of the command's select reads back the fields the encoder wrote. -/
theorem decodeOfEncodeIsTheCommand : Obligations.DecodeOfEncodeIsTheCommand := fun _ => decode_encode

/-- Settles O2: what is decoded was built by the row of the transfer's select. -/
theorem decodedCommandKeepsItsSelect : Obligations.DecodedCommandKeepsItsSelect := by
  intro c i h
  obtain ⟨r, hr, rfl, hw⟩ := decode_ok h
  obtain ⟨hmem, hsel⟩ := rowOf_some hr
  exact ⟨hw, by rw [encode_sel, sel_of_row hmem, hsel], decode_encode hw⟩

/-- Settles O4: the reserved selects are those without a row, and a row asks only for the 32 bytes. -/
theorem reservedSelectsAreRefused : Obligations.ReservedSelectsAreRefused := by
  intro s c l hc
  constructor
  · intro h
    have hd := decode_of_reserved h
    exact ⟨hd, by simp only [Machine.step, Machine.fetch, hc, hd, Machine.refusalOf]⟩
  · intro h hv
    obtain ⟨r, hr⟩ := Option.ne_none_iff_exists'.mp (mt rowOf_eq_none_iff_reserved.mp h)
    exact ⟨r.build c, decode_of_row (by rw [hr, Option.map_some]) (wellFormed_of_row (rowOf_some hr).1 hv)⟩

/-- Settles O3: each row is found by its select; only STO.STORE's checks a field. -/
theorem payloadFieldsAreUsedAsTheyAre : Obligations.PayloadFieldsAreUsedAsTheyAre := by
  intro c
  refine ⟨?_, ?_, ?_, ?_, ?_, ?_, ?_, ?_, ?_, ?_, ?_, fun h hv => ?stoStore, ?_⟩
  case stoStore => exact decode_of_row (by rw [h]; rfl) (wellFormed_stoStore.mpr hv)
  all_goals exact fun h => decode_of_row (by rw [h]; rfl) rfl

/-! ## The words of the opcode table -/

/-- R90: a nine-bit number is the word of its select. -/
theorem tableSel_toNat (sel : BitVec 9) : tableSel 16 sel.toNat = some sel := by
  have := sel.isLt
  rw [tableSel, Nat.mod_eq_of_lt (by omega), if_pos this, BitVec.ofNat_toNat, BitVec.setWidth_eq]

theorem decodeTableWord_toNat (sel : BitVec 9) :
    decodeTableWord 16 sel.toNat = (decode (Command.ofSel sel)).toOption := by
  simp only [decodeTableWord, tableSel_toNat]

/-- A command with no payload but zeros (log 14): the word of its select decodes to it. -/
abbrev IsTableRow (w : Nat) (i : Instr) : Prop :=
  w = i.sel.toNat ∧ encode i = Command.ofSel i.sel ∧ i.wellFormed = true

theorem IsTableRow.decodes {w : Nat} (h : IsTableRow w i) : decodeTableWord 16 w = some i := by
  obtain ⟨rfl, he, hw⟩ := h
  rw [decodeTableWord_toNat, ← he, decode_encode hw]
  rfl

/-- R98: the word of a reserved select decodes to nothing. -/
theorem decodeTableWord_of_reserved (h : Machine.reservedSelect sel.toNat) : decodeTableWord 16 sel.toNat = none := by
  rw [decodeTableWord_toNat, decode_of_reserved (c := Command.ofSel sel) h]
  rfl

/-- Settles O5: each word is its command's select, so `decode_encode` answers; 0x151 is reserved. -/
theorem wordsOfTheOpcodeMapDecode : Obligations.WordsOfTheOpcodeMapDecode := by
  refine ⟨fun p hp => IsTableRow.decodes ?_, fun p hp => IsTableRow.decodes ?_, fun p hp => IsTableRow.decodes ?_,
    fun p hp => IsTableRow.decodes ?_, decodeTableWord_of_reserved (sel := 0x151) (by decide)⟩
  all_goals revert p; decide

end Sys2Proof

/-! PROOFS. The Stack component (40_stack_component.md): its five commands (O49 to O51) and the laws between them (O52).
Each command has one equation per case; an exchange of two Words is a relation of its own. -/

namespace Sys2Proof
namespace Machine

variable {s : State} {d : Int} {v : Word} {l m n : List Word} {k : Nat}

/-! ## What each Stack command answers -/

/-- R120: below capacity. -/
theorem execStkPush_of_room (h : s.size ≠ Config.stackCap) :
    execStkPush v s = .next (s.leaves (v :: s.stack)) := by
  rw [execStkPush, push_of_room h, complete, respond_eq]

/-- R120, R302. -/
theorem execStkPush_of_full (h : s.size = Config.stackCap) : execStkPush v s = .next (s.fails .stackOverflow) := by
  rw [execStkPush, push_of_full h, complete, raise_eq]

theorem execStkPop_of_cons (h : s.stack = v :: l) :
    execStkPop s = .next ((s.withStack l).answered (.ok (.word v)) none) := by
  simp only [execStkPop, pop_of_cons h, respond_eq]

theorem execStkPop_of_empty (h : s.size = 0) : execStkPop s = .next (s.fails .stackUnderflow) := by
  simp only [execStkPop, pop_of_nil (List.length_eq_zero_iff.mp h), raise_eq]

/-- R122: the empty test comes first, whatever the depth. -/
theorem execStkPeek_of_empty (h : s.size = 0) : execStkPeek d s = .next (s.fails .emptyStack) := by
  rw [execStkPeek, if_neg fun hd => hd.1 h, peek_of_empty h]
  rfl

theorem execStkPeek_of_deep (h : s.size ≠ 0) (hd : (s.size : Int) < d) :
    execStkPeek d s = .next (s.fails .indexOutOfRange) := by
  rw [execStkPeek, if_neg (by omega), peek_of_deep h (by omega)]
  rfl

theorem execStkPeek_of_listed (h1 : 1 ≤ d) (hv : s.stack[d.toNat - 1]? = some v) :
    execStkPeek d s = .next (s.answered (.ok (.word v)) none) := by
  rw [execStkPeek, if_neg (by omega), peek_of_listed hv]
  rfl

/-- R123: the empty test comes first, whatever the depth. -/
theorem execStkSwap_of_empty (h : s.size = 0) : execStkSwap d s = .next (s.fails .emptyStack) := by
  rw [execStkSwap, if_neg fun hd => hd.1 h, swap_of_empty h, complete, raise_eq]

theorem execStkSwap_of_deep (h : s.size ≠ 0) (hd : (s.size : Int) < d) :
    execStkSwap d s = .next (s.fails .indexOutOfRange) := by
  rw [execStkSwap, if_neg (by omega), swap_of_deep h (by omega) (by omega), complete, raise_eq]

/-! ## The exchange of two Words -/

/-- R123: `m` is the Stack `l` with the top and the Word `k` places below it exchanged. -/
def Exchanged (k : Nat) (l m : List Word) : Prop :=
  m.length = l.length ∧ m[0]? = l[k]? ∧ m[k]? = l[0]? ∧ ∀ j, j ≠ 0 → j ≠ k → m[j]? = l[j]?

theorem Exchanged.length_eq (h : Exchanged k l m) : m.length = l.length := h.1

/-- The list `swap` builds is the exchange. -/
theorem exchanged_cons_set {t : Word} (h : l[k]? = some v) : Exchanged (k + 1) (t :: l) (v :: l.set k t) := by
  have hk : k < l.length := (List.getElem?_eq_some_iff.mp h).1
  refine ⟨by simp, by simp [h], by simp [hk], fun j h0 hj => ?_⟩
  obtain ⟨j, rfl⟩ := Nat.exists_eq_succ_of_ne_zero h0
  simp only [List.getElem?_cons_succ]
  exact List.getElem?_set_ne (by omega)

/-- R125 (e): an exchange is undone by the same exchange. -/
theorem Exchanged.twice (h : Exchanged k l m) (h' : Exchanged k m n) : n = l := by
  obtain ⟨-, htop, hdeep, hrest⟩ := h
  obtain ⟨-, htop', hdeep', hrest'⟩ := h'
  refine List.ext_getElem? fun j => ?_
  by_cases h0 : j = 0
  · rw [h0, htop', hdeep]
  by_cases hk : j = k
  · rw [hk, hdeep', htop]
  · rw [hrest' j h0 hk, hrest j h0 hk]

/-- R123: in its domain STK.SWAP leaves the exchanged Stack. -/
theorem execStkSwap_exchanged (h2 : 2 ≤ d) (hd : d ≤ s.size) :
    ∃ m, execStkSwap d s = .next (s.leaves m) ∧ Exchanged (d.toNat - 1) s.stack m := by
  rw [State.size_eq] at hd
  obtain ⟨t, l, hs⟩ := List.exists_cons_of_length_pos (l := s.stack) (by omega)
  have hl : d.toNat - 2 < l.length := by rw [hs, List.length_cons] at hd; omega
  have hv := List.getElem?_eq_getElem hl
  refine ⟨_, by rw [execStkSwap, if_neg (by omega), swap_of_listed hs hv, complete, respond_eq], ?_⟩
  rw [hs, show d.toNat - 1 = d.toNat - 2 + 1 by omega]
  exact exchanged_cons_set hv

/-! ## The obligations -/

/-- Settles O50: an equation for each of the four cases of the depth. -/
theorem stkPeekReturnsTheWordAtADepth : Obligations.StkPeekReturnsTheWordAtADepth := by
  intro s d
  refine ⟨fun h1 hd => ?_, execStkPeek_of_empty, execStkPeek_of_deep, fun h hd => if_pos ⟨h, hd⟩⟩
  rw [State.size_eq] at hd
  have hv := List.getElem?_eq_getElem (show d.toNat - 1 < s.stack.length by omega)
  exact ⟨_, hv, execStkPeek_of_listed h1 hv⟩

/-- Settles O51: `Exchanged` in the domain; below it the guard, above it the primitive answers. -/
theorem stkSwapExchangesTwoWords : Obligations.StkSwapExchangesTwoWords := fun _ _ =>
  ⟨execStkSwap_exchanged, execStkSwap_of_empty, execStkSwap_of_deep, fun h hd => if_pos ⟨h, hd⟩⟩

/-- R125 (c). -/
theorem stkPop_undoes_stkPush {t u : State} (ht : execStkPush v s = .next t) (hok : t.rspPort = some (.ok .none))
    (hu : execStkPop t = .next u) : u.rspPort = some (.ok (.word v)) ∧ u.stack = s.stack := by
  obtain ⟨-, e⟩ | ⟨-, e⟩ := execStkPush_cases v s <;> cases e.symm.trans ht
  · cases hok
  · cases (execStkPop_of_cons rfl).symm.trans hu
    exact ⟨rfl, rfl⟩

/-- R125 (e). The first STK.SWAP that raises keeps the Stack, so the second raises the same error. -/
theorem stkSwap_twice {t u : State} (ht : execStkSwap d s = .next t) (hu : execStkSwap d t = .next u) :
    u.stack = s.stack := by
  obtain ⟨h, e⟩ | ⟨-, -, e⟩ | ⟨h, hd, e⟩ | ⟨_, _, _, h2, hd, -⟩ := execStkSwap_cases d s
  · cases e.symm.trans ht
    cases (execStkSwap_of_empty (s := s.fails .emptyStack) h).symm.trans hu
    rfl
  · cases e.symm.trans ht
  · cases e.symm.trans ht
    cases (execStkSwap_of_deep (s := s.fails .indexOutOfRange) h hd).symm.trans hu
    rfl
  · obtain ⟨m, e, hm⟩ := execStkSwap_exchanged h2 hd
    cases e.symm.trans ht
    have hd' : d ≤ (s.leaves m).size := hd.trans_eq (congrArg _ hm.length_eq.symm)
    obtain ⟨n, e', hn⟩ := execStkSwap_exchanged h2 hd'
    cases e'.symm.trans hu
    exact hm.twice hn

/-- Settles O52: the two laws, one of push and pop, one of two exchanges. -/
theorem stackLaws : Obligations.StackLaws :=
  ⟨fun _ _ _ _ => stkPop_undoes_stkPush, fun _ _ _ _ => stkSwap_twice⟩

/-- Settles O49: the selects are O3's; STK.SIZE has one answer, STK.PUSH and STK.POP have two. -/
theorem stkPushPopAndSize : Obligations.StkPushPopAndSize := by
  constructor
  · intro c
    obtain ⟨hpush, hpop, -, -, hsize, -⟩ := payloadFieldsAreUsedAsTheyAre c
    exact ⟨hpush, hpop, hsize⟩
  · exact fun s => ⟨fun _ => ⟨execStkPush_of_room, execStkPush_of_full⟩, execStkPop_of_empty,
      fun _ _ => execStkPop_of_cons, rfl⟩

end Machine
end Sys2Proof

/-! PROOFS. The Memory component (41_memory_component.md): its three stores (O53, O54) and its three loads (O55, O56). The
stores differ in the bytes alone, so one equation in the bound and one past it serve all three. -/

namespace Sys2Proof
namespace Machine

variable {s : State} {v : Bytes} {p n k : Nat}

/-! ## Stores at a payload offset -/

/-- R63, R74: within MEM_LIMIT the bytes are written. -/
theorem storePort_of_memOk (h : s.memOk (p + v.length)) :
    storePort v p s = .next ((s.withMem (s.mem.write p v)).answered (.ok .none) none) := by
  obtain ⟨-, e⟩ | ⟨_, hl, hlt, -⟩ := storePort_cases v p s
  · exact e
  · exact absurd h (not_memOk hl hlt)

/-- R74, D12: beyond MEM_LIMIT there is no meaning. -/
theorem storePort_of_not_memOk (h : ¬ s.memOk (p + v.length)) :
    storePort v p s = .refused (.memLimit (p + v.length)) := storePort_refused_iff.mpr ⟨h, rfl⟩

/-- Settles O53: the new Memory is the old one after the write, whose bytes and length are known. -/
theorem memStoreWritesItsBytes : Obligations.MemStoreWritesItsBytes := by
  intro s v p
  refine ⟨fun h => ⟨s.mem.write p v, storePort_of_memOk h, Memory.write_mlen .., fun k hk => ?_,
    fun _ => Memory.write_readByte_outside⟩, storePort_of_not_memOk⟩
  rw [Memory.write_readByte_inside hk, List.getElem?_eq_getElem hk]

/-- Settles O54: MEM.STOREB writes the byte string `[b]`, MEM.STOREW the 32 bytes of `BE32(w)`. -/
theorem memStoreByteAndWordWriteTheirBytes : Obligations.MemStoreByteAndWordWriteTheirBytes := by
  intro s p
  constructor
  · intro b
    have hb : ([b] : Bytes).length = 1 := rfl
    exact ⟨fun h => ⟨s.mem.write p [b], storePort_of_memOk h, Memory.write_mlen ..,
      Memory.write_readByte_inside (k := 0) (by omega), fun a ha => Memory.write_readByte_outside (by omega)⟩,
      storePort_of_not_memOk (v := [b])⟩
  · intro w
    have hw := be32_length w
    rw [← hw]
    refine ⟨fun h => ⟨s.mem.write p (be32 w), storePort_of_memOk h, Memory.write_mlen .., fun k hk => ?_,
      fun _ => Memory.write_readByte_outside⟩, storePort_of_not_memOk⟩
    rw [Memory.write_readByte_inside hk, be32_getElem]

/-! ## Loads -/

/-- R62: in a range of `n` bytes each index below `n` has its byte. -/
theorem Memory.read_getElem? (m : Memory) (hk : k < n) : (m.read p n)[k]? = some (m.readByte (p + k)) := by
  have hl : k < (m.read p n).length := by rwa [Memory.read_length]
  rw [List.getElem?_eq_getElem hl, Memory.read_getElem]

/-- R67: byte `k` of the Word of 32 bytes of Memory, most significant first. -/
theorem wordOfBytes_read_byte (m : Memory) (hk : k < 32) :
    (wordOfBytes (m.read p 32)).extractLsb' (248 - 8 * k) 8 = m.readByte (p + k) := by
  have hl := m.read_length p 32
  rw [wordOfBytes_byte hl k (by omega), Memory.read_getElem]

/-- Settles O55: the selects are O3's; the bytes are those of the range, and `readByte` is zero past the length. -/
theorem memLoadsReturnBytesWithoutGrowth : Obligations.MemLoadsReturnBytesWithoutGrowth := by
  constructor
  · intro c
    obtain ⟨-, -, -, -, -, -, hload, hloadB, -⟩ := payloadFieldsAreUsedAsTheyAre c
    exact ⟨hload, hloadB⟩
  · intro s p
    refine ⟨fun n => ⟨s.mem.read p n, rfl, Memory.read_length .., fun k hk => ?_⟩,
      s.mem.readByte p, rfl, rfl, Memory.readByte_of_le⟩
    have hr := s.mem.read_getElem? (p := p) hk
    exact ⟨hr, fun hle => hr.trans (congrArg some (Memory.readByte_of_le hle))⟩

/-- Settles O56: the Word of the 32 bytes read. -/
theorem memLoadWordReturnsBigEndian : Obligations.MemLoadWordReturnsBigEndian := fun s p =>
  ⟨wordOfBytes (s.mem.read p 32), rfl, fun _ hk => wordOfBytes_read_byte s.mem hk⟩

end Machine
end Sys2Proof

/-! PROOFS. The Storage component (42_storage_component.md): STO.STORE and STO.LOAD (O57), and the laws of two stores
(O58). A canonical Storage is determined by what it reads, so a law of writes is a law of reads after them. -/

namespace Sys2Proof
namespace Machine

variable {s t : State} {st : Storage} {k k' j : Int} {v v' : Bytes}

/-! ## Reads after writes -/

theorem Storage.read_write_same (st : Storage) (k : Int) (v : Bytes) : (st.write k v).read k = v := by
  rw [Storage.read_write, if_pos rfl]

theorem Storage.read_write_of_ne (h : j ≠ k) : (st.write k v).read j = st.read j := by
  rw [Storage.read_write, if_neg h]

/-- R31: over no map a key never written reads as 32 zero bytes. -/
theorem Storage.read_of_base_none (hk : ∀ c ∈ st.cells, c.1 ≠ k) (h : st.base = none) : st.read k = zeros 32 := by
  rw [Storage.read_of_not_listed hk, Storage.unlisted_of_none h]

/-- R31: over a map a key never written reads as its value there. -/
theorem Storage.read_of_base_some {n : Nat} (hk : ∀ c ∈ st.cells, c.1 ≠ k) (h : st.base = some n) :
    st.read k = (Config.stoInit n k).toList := by
  rw [Storage.read_of_not_listed hk, Storage.unlisted, h]

/-! ## Which Storage a write leaves -/

/-- R140: over no map a store of 32 zero bytes leaves no entry of its key. -/
theorem Storage.write_zeros_not_listed (h : st.base = none) : ∀ c ∈ (st.write k (zeros 32)).cells, c.1 ≠ k := by
  intro c hc
  rcases mem_cellsSet hc with ⟨-, hv⟩ | ⟨-, hk⟩
  · exact absurd (Storage.unlisted_of_none h k).symm hv
  · exact hk

/-- A write of the value that its key has changes nothing. -/
theorem Storage.write_of_read (h : st.wf) (hv : v.length = 32) (hr : st.read k = v) : st.write k v = st := by
  refine Storage.ext_read (Storage.write_wf h k hv) h rfl fun j => ?_
  rw [Storage.read_write]
  split
  · next hj => rw [hj, hr]
  · rfl

/-- R142 (b): the later of two writes to one key stands. -/
theorem Storage.write_write (h : st.wf) (hv : v.length = 32) (hv' : v'.length = 32) :
    (st.write k v).write k v' = st.write k v' := by
  refine Storage.ext_read (Storage.write_wf (Storage.write_wf h k hv) k hv') (Storage.write_wf h k hv') rfl fun j => ?_
  simp only [Storage.read_write]
  split <;> rfl

/-- Writes to different keys commute. -/
theorem Storage.write_comm (h : st.wf) (hk : k ≠ k') (hv : v.length = 32) (hv' : v'.length = 32) :
    (st.write k v).write k' v' = (st.write k' v').write k v := by
  refine Storage.ext_read (Storage.write_wf (Storage.write_wf h k hv) k' hv')
    (Storage.write_wf (Storage.write_wf h k' hv') k hv) rfl fun j => ?_
  simp only [Storage.read_write]
  by_cases hj : j = k
  · rw [if_neg (hj.trans_ne hk), if_pos hj, if_pos hj]
  · rw [if_neg hj, if_neg hj]

/-! ## What each Storage command answers -/

/-- The state STO.STORE leaves: another Storage, and OK with no result. -/
abbrev State.stores (s : State) (k : Int) (v : Bytes) : State :=
  (s.withSto (s.sto.write k v)).answered (.ok .none) none

theorem execStoStore_of_keyOk (h : s.keyOk k) : execStoStore k v s = .next (s.stores k v) := if_pos h

theorem execStoLoad_of_keyOk (h : s.keyOk k) :
    execStoLoad k s = .next (s.answered (.ok (.val (s.sto.read k))) none) := if_pos h

/-- R140: where STO.STORE answers, it stores. -/
theorem eq_stores_of_execStoStore (h : execStoStore k v s = .next t) : t = s.stores k v := by
  obtain ⟨-, e⟩ | ⟨-, e⟩ := execStoStore_cases k v s <;> cases e.symm.trans h
  rfl

/-! ## The obligations -/

/-- Settles O57: the selects are O3's; the new Storage is the old one after the write, and a load reads one key. -/
theorem storageStoreAndLoad : Obligations.StorageStoreAndLoad := by
  constructor
  · intro c
    obtain ⟨-, -, -, -, -, -, -, -, -, -, -, hstore, hload⟩ := payloadFieldsAreUsedAsTheyAre c
    exact ⟨hstore, hload⟩
  · intro s k hk
    constructor
    · intro v
      refine ⟨s.sto.write k v, execStoStore_of_keyOk hk, Storage.read_write_same .., fun _ => Storage.read_write_of_ne,
        Storage.write_base .., ?_⟩
      rintro hb rfl
      exact Storage.write_zeros_not_listed hb
    · exact ⟨s.sto.read k, execStoLoad_of_keyOk hk, rfl,
        fun hc => ⟨Storage.read_of_base_none hc, fun _ => Storage.read_of_base_some hc⟩⟩

/-- Settles O58: each clause is a law of writes; the states differ in their Storage alone. -/
theorem storesCommuteAndZeroUndoesThem : Obligations.StoresCommuteAndZeroUndoesThem := by
  intro s k v hs hv
  have hz : (zeros 32).length = 32 := List.length_replicate
  constructor
  · intro k' v' hk hv' t t' u u' ht hu ht' hu'
    obtain rfl := eq_stores_of_execStoStore ht
    obtain rfl := eq_stores_of_execStoStore hu
    obtain rfl := eq_stores_of_execStoStore ht'
    obtain rfl := eq_stores_of_execStoStore hu'
    exact congrArg (fun st => (s.withSto st).answered (.ok .none) none) (Storage.write_comm hs hk hv hv')
  · intro hk
    refine ⟨s.stores k (zeros 32), execStoStore_of_keyOk hk, Storage.read_write_same ..,
      fun _ => Storage.read_write_of_ne, fun u w hu hw => ?_, fun hb => ⟨Storage.write_zeros_not_listed hb, fun hc => ?_⟩⟩
    · obtain rfl := eq_stores_of_execStoStore hu
      obtain rfl := eq_stores_of_execStoStore hw
      exact Storage.write_write hs hv hz
    · exact Storage.write_of_read hs hz (Storage.read_of_base_none hc hb)

end Machine
end Sys2Proof

/-! PROOFS. Arithmetic (43_arithmetic.md): which outcomes BINOP_ORDER changes (O24), and what each command leaves (O25
to O32). Each operand form gets one equation for too few Words and one for enough; each result gets its value. -/

namespace Sys2Proof
namespace Machine

variable {s : State} {x y m b : Word} {l : List Word}

/-! ## BINOP_ORDER is read by the ten commands only

`s.withBinopOrder o` is `s` with that parameter replaced. Each operation that does not place `x` and `y`, or whose
result does not depend on their order, gives on it the outcome it gives on `s`, up to the parameter itself. -/

/-- The state with another BINOP_ORDER. -/
def State.withBinopOrder (s : State) (o : BinopOrder) : State :=
  { s with params := { s.params with binopOrder := o } }

section Order

variable (o : BinopOrder)

@[simp] theorem State.withBinopOrder_stack : (s.withBinopOrder o).stack = s.stack := rfl
@[simp] theorem State.withBinopOrder_pc : (s.withBinopOrder o).pc = s.pc := rfl
@[simp] theorem State.withBinopOrder_code : (s.withBinopOrder o).code = s.code := rfl
@[simp] theorem State.withBinopOrder_memLimit : (s.withBinopOrder o).params.memLimit = s.params.memLimit := rfl
@[simp] theorem State.withBinopOrder_size : (s.withBinopOrder o).size = s.size := rfl

theorem push_withBinopOrder (v : Word) :
    push v (s.withBinopOrder o) = (push v s).map fun t => t.withBinopOrder o := by
  unfold push
  rw [State.withBinopOrder_size]
  split <;> rfl

theorem pop_withBinopOrder :
    pop (s.withBinopOrder o) = (pop s).map fun vt => (vt.1, vt.2.withBinopOrder o) := by
  unfold pop
  rw [State.withBinopOrder_stack]
  split <;> rfl

theorem peek_withBinopOrder (d : Nat) : peek d (s.withBinopOrder o) = peek d s := rfl

theorem swap_withBinopOrder (d : Nat) :
    swap d (s.withBinopOrder o) = (swap d s).map fun t => t.withBinopOrder o := by
  unfold swap
  rw [State.withBinopOrder_stack]
  split
  · rfl
  · split <;> rfl

theorem wordToOffset_withBinopOrder (w : Word) : wordToOffset (s.withBinopOrder o) w = wordToOffset s w := rfl

theorem keyInType_withBinopOrder (k : Int) : keyInType (s.withBinopOrder o).params k = keyInType s.params k := rfl

theorem storeMem_withBinopOrder (a : Nat) (v : Bytes) :
    storeMem (s.withBinopOrder o) a v = (storeMem s a v).map fun t => t.withBinopOrder o := by
  unfold storeMem
  rw [State.withBinopOrder_memLimit]
  split
  · rfl
  · split <;> rfl

theorem operandBytes_withBinopOrder (n : Nat) : operandBytes (s.withBinopOrder o) n = operandBytes s n := rfl

theorem complete_withBinopOrder (x : Except ErrorKind State) :
    complete (s.withBinopOrder o) .none (x.map fun t => t.withBinopOrder o) = withOrder o (complete s .none x) := by
  cases x <;> rfl

end Order

/-- An operation whose outcome does not depend on BINOP_ORDER. -/
def OrderFree (op : State → Out) : Prop :=
  ∀ s o, op (s.withBinopOrder o) = withOrder o (op s)

theorem orderFree_unaryOp (f : Word → Word) : OrderFree (unaryOp f) := fun s o => by
  rw [unaryOp, State.withBinopOrder_stack, unaryOp]
  split <;> rfl

/-- R164: the placement of the operands does not matter to a commutative result. -/
theorem apply_placeXY_of_comm {f : Word → Word → Word} (hf : ∀ x y, f x y = f y x) (o : BinopOrder) (a b : Word) :
    f (placeXY o a b).1 (placeXY o a b).2 = f a b := by
  cases o with
  | xTop => rfl
  | yTop => exact hf b a

theorem orderFree_binaryXY_of_comm {f : Word → Word → Word} (hf : ∀ x y, f x y = f y x) : OrderFree (binaryXY f) :=
  fun s o => by
    simp only [binaryXY, State.withBinopOrder_stack, apply_placeXY_of_comm hf]
    split <;> rfl

theorem orderFree_binaryTop (f : Word → Word → Word) : OrderFree (binaryTop f) := fun s o => by
  rw [binaryTop, State.withBinopOrder_stack, binaryTop]
  split <;> rfl

theorem orderFree_ternaryTop (f : Word → Word → Word → Word) : OrderFree (ternaryTop f) := fun s o => by
  rw [ternaryTop, State.withBinopOrder_stack, ternaryTop]
  split <;> rfl

theorem orderFree_storeOp (f : Word → Bytes) : OrderFree (storeOp f) := by
  intro s o
  unfold storeOp
  simp only [State.withBinopOrder_stack, wordToOffset_withBinopOrder, storeMem_withBinopOrder]
  split
  next value _ _ =>
    split
    · rfl
    · next p _ => cases storeMem s p (f value) <;> rfl
  · rfl

theorem orderFree_storePort (v : Bytes) (p : Nat) : OrderFree (storePort v p) := by
  intro s o
  unfold storePort
  rw [storeMem_withBinopOrder]
  cases storeMem s p v <;> rfl

theorem orderFree_pushN (n : Nat) : OrderFree (pushN n) := by
  intro s o
  unfold pushN
  rw [push_withBinopOrder, operandBytes_withBinopOrder, State.withBinopOrder_pc, State.withBinopOrder_code]
  split
  · rfl
  · cases push (wordOfBytes (operandBytes s n)) s <;> rfl

theorem orderFree_dupN (n : Nat) : OrderFree (dupN n) := by
  intro s o
  unfold dupN
  rw [peek_withBinopOrder]
  cases peek n s with
  | error => rfl
  | ok v => simp only [push_withBinopOrder, complete_withBinopOrder]

theorem orderFree_swapN (n : Nat) : OrderFree (swapN n) := fun s o => by
  rw [swapN, swap_withBinopOrder, complete_withBinopOrder, swapN]

theorem orderFree_execMload : OrderFree execMload := by
  intro s o
  unfold execMload
  rw [State.withBinopOrder_stack]
  split
  · rw [wordToOffset_withBinopOrder]
    split <;> rfl
  · rfl

theorem orderFree_execKeccak256 : OrderFree execKeccak256 := by
  intro s o
  unfold execKeccak256
  rw [State.withBinopOrder_stack]
  split
  · simp only [wordToOffset_withBinopOrder]
    split <;> rfl
  · rfl

theorem orderFree_execPop : OrderFree execPop := fun s o => by
  rw [execPop, pop_withBinopOrder, execPop]
  cases pop s <;> rfl

theorem orderFree_execStkPop : OrderFree execStkPop := fun s o => by
  rw [execStkPop, pop_withBinopOrder, execStkPop]
  cases pop s <;> rfl

theorem orderFree_execPush0 : OrderFree execPush0 := fun s o => by
  rw [execPush0, push_withBinopOrder, execPush0]
  cases push (W 0) s <;> rfl

theorem orderFree_execStkPush (v : Word) : OrderFree (execStkPush v) := fun s o => by
  rw [execStkPush, push_withBinopOrder, complete_withBinopOrder, execStkPush]

theorem orderFree_execStkPeek (d : Int) : OrderFree (execStkPeek d) := by
  intro s o
  unfold execStkPeek
  rw [State.withBinopOrder_size, peek_withBinopOrder]
  split
  · rfl
  · cases peek d.toNat s <;> rfl

theorem orderFree_execStkSwap (d : Int) : OrderFree (execStkSwap d) := by
  intro s o
  unfold execStkSwap
  rw [State.withBinopOrder_size, swap_withBinopOrder, complete_withBinopOrder]
  split <;> rfl

theorem orderFree_execStoStore (k : Int) (v : Bytes) : OrderFree (execStoStore k v) := by
  intro s o
  unfold execStoStore
  rw [keyInType_withBinopOrder]
  split <;> rfl

theorem orderFree_execStoLoad (k : Int) : OrderFree (execStoLoad k) := by
  intro s o
  unfold execStoLoad
  rw [keyInType_withBinopOrder]
  split <;> rfl

/-! R164: of the commands whose operands are placed as `x` and `y`, six are commutative. -/

theorem addResult_comm (x y : Word) : addResult x y = addResult y x := congrArg W (Int.add_comm ..)

theorem mulResult_comm (x y : Word) : mulResult x y = mulResult y x := congrArg W (Int.mul_comm ..)

theorem eqResult_comm (x y : Word) : eqResult x y = eqResult y x := by simp only [eqResult, eq_comm]

theorem orderFree_exec {i : Instr} (h : i.orderSensitive = false) : OrderFree (exec i) := by
  cases i
  case sub | div | sdiv | mod | smod | exp | lt | gt | slt | sgt => cases h
  case add => exact orderFree_binaryXY_of_comm addResult_comm
  case mul => exact orderFree_binaryXY_of_comm mulResult_comm
  case eq => exact orderFree_binaryXY_of_comm eqResult_comm
  case and => exact orderFree_binaryXY_of_comm BitVec.and_comm
  case or => exact orderFree_binaryXY_of_comm BitVec.or_comm
  case xor => exact orderFree_binaryXY_of_comm BitVec.xor_comm
  case iszero | not => exact orderFree_unaryOp _
  case addmod | mulmod => exact orderFree_ternaryTop _
  case signextend | byte | shl | shr | sar => exact orderFree_binaryTop _
  case keccak256 => exact orderFree_execKeccak256
  case mload => exact orderFree_execMload
  case mstore | mstore8 => exact orderFree_storeOp _
  case memStore | memStoreB | memStoreW => exact orderFree_storePort _ _
  case memLoad | memLoadB | memLoadW | stkSize => exact fun _ _ => rfl
  case pop => exact orderFree_execPop
  case push0 => exact orderFree_execPush0
  case stkPush v => exact orderFree_execStkPush v
  case stkPop => exact orderFree_execStkPop
  case stkPeek d => exact orderFree_execStkPeek d
  case stkSwap d => exact orderFree_execStkSwap d
  case stoStore k v => exact orderFree_execStoStore k v
  case stoLoad k => exact orderFree_execStoLoad k
  case dup1 | dup2 | dup3 | dup4 | dup5 | dup6 | dup7 | dup8 | dup9 | dup10 | dup11 | dup12 | dup13 | dup14 | dup15
      | dup16 => exact orderFree_dupN _
  case swap1 | swap2 | swap3 | swap4 | swap5 | swap6 | swap7 | swap8 | swap9 | swap10 | swap11 | swap12 | swap13
      | swap14 | swap15 | swap16 => exact orderFree_swapN _
  all_goals exact orderFree_pushN _

/-- Settles O24: the operations that place `x` and `y` are commutative but for the ten, and no other reads the order. -/
theorem operandOrderMattersOnlyForTenCommands : Obligations.OperandOrderMattersOnlyForTenCommands := fun _ s o h =>
  orderFree_exec h s o

/-! ## What a command with two or three operands leaves -/

theorem binaryXY_of_lt (f : Word → Word → Word) (h : s.size < 2) :
    binaryXY f s = .next (s.fails .stackUnderflow) := by
  obtain ⟨-, e⟩ | ⟨_, _, _, hs, -⟩ := binaryXY_cases f s
  · exact e
  · simp [State.size_eq, hs] at h

theorem binaryTop_of_lt (f : Word → Word → Word) (h : s.size < 2) :
    binaryTop f s = .next (s.fails .stackUnderflow) := by
  obtain ⟨-, e⟩ | ⟨_, _, _, hs, -⟩ := binaryTop_cases f s
  · exact e
  · simp [State.size_eq, hs] at h

theorem ternaryTop_of_lt (f : Word → Word → Word → Word) (h : s.size < 3) :
    ternaryTop f s = .next (s.fails .stackUnderflow) := by
  obtain ⟨-, e⟩ | ⟨_, _, _, _, hs, -⟩ := ternaryTop_cases f s
  · exact e
  · simp only [State.size_eq, hs, List.length_cons] at h
    omega

/-- R164: under either order the result is that of `x` and `y`. -/
theorem binaryXY_of_operandsXY (f : Word → Word → Word) (h : s.operandsXY x y l) :
    binaryXY f s = .next (s.leaves (f x y :: l)) := by
  obtain ⟨ho, hs⟩ | ⟨ho, hs⟩ := h <;> simp only [binaryXY, hs, ho, placeXY, respond_eq]

theorem binaryTop_of_cons (f : Word → Word → Word) (h : s.stack = x :: y :: l) :
    binaryTop f s = .next (s.leaves (f x y :: l)) := by
  simp only [binaryTop, h, respond_eq]

theorem ternaryTop_of_cons (f : Word → Word → Word → Word) (h : s.stack = x :: y :: m :: l) :
    ternaryTop f s = .next (s.leaves (f x y m :: l)) := by
  simp only [ternaryTop, h, respond_eq]

/-- R96: a select is a command's when its row builds that command from any transfer. -/
theorem hasSelect_of_row {n : Nat} {i : Instr}
    (hr : ∀ c, (rowOf (BitVec.ofNat 9 n)).map (fun r => r.build c) = some i) (hw : i.wellFormed = true) :
    hasSelect n i := by
  rintro c rfl
  refine decode_of_row ?_ hw
  rw [← hr c, BitVec.ofNat_toNat, BitVec.setWidth_eq]

/-! ## The values of the unsigned results -/

theorem U_addResult (x y : Word) : U (addResult x y) = (U x + U y) % 2 ^ 256 := by
  rw [addResult, ← Int.natCast_add, U_W_natCast]

theorem U_mulResult (x y : Word) : U (mulResult x y) = (U x * U y) % 2 ^ 256 := by
  rw [mulResult, ← Int.natCast_mul, U_W_natCast]

/-- R13: a Word is `W` of both of its readings. -/
theorem W_U_eq_W_S (x : Word) : W (U x) = W (S x) := by
  rw [W, W, BitVec.ofInt_natCast, BitVec.ofNat_toNat, BitVec.setWidth_eq, BitVec.ofInt_toInt]

/-- R152: the product modulo 2^256 does not depend on the reading, as `W` keeps products. -/
theorem mulResult_eq_W_S (x y : Word) : mulResult x y = W (S x * S y) :=
  calc mulResult x y
    _ = W (U x) * W (U y) := BitVec.ofInt_mul ..
    _ = W (S x) * W (S y) := by rw [W_U_eq_W_S, W_U_eq_W_S]
    _ = W (S x * S y) := (BitVec.ofInt_mul ..).symm

/-- A remainder by a Word is read back from its own Word. -/
theorem U_W_mod {m : Word} (hm : U m ≠ 0) (n : Nat) : U (W (n % U m : Nat)) = n % U m :=
  U_W_of_lt ((Nat.mod_lt n (Nat.pos_of_ne_zero hm)).trans m.isLt)

theorem U_divResult (x y : Word) : U (divResult x y) = U x / U y := by
  unfold divResult
  split
  · next hy => rw [hy, Nat.div_zero]; rfl
  · exact U_W_of_lt ((Nat.div_le_self ..).trans_lt x.isLt)

theorem U_modResult_of_zero (hy : U y = 0) : U (modResult x y) = 0 := by rw [modResult, if_pos hy]; rfl

theorem U_modResult (hy : U y ≠ 0) : U (modResult x y) = U x % U y := by rw [modResult, if_neg hy, U_W_mod hy]

theorem U_addmodResult_of_zero (hm : U m = 0) : U (addmodResult x y m) = 0 := by rw [addmodResult, if_pos hm]; rfl

theorem U_addmodResult (hm : U m ≠ 0) : U (addmodResult x y m) = (U x + U y) % U m := by
  rw [addmodResult, if_neg hm, U_W_mod hm]

theorem U_mulmodResult_of_zero (hm : U m = 0) : U (mulmodResult x y m) = 0 := by rw [mulmodResult, if_pos hm]; rfl

theorem U_mulmodResult (hm : U m ≠ 0) : U (mulmodResult x y m) = U x * U y % U m := by
  rw [mulmodResult, if_neg hm, U_W_mod hm]

theorem U_expResult (x y : Word) : U (expResult x y) = (U x ^ U y) % 2 ^ 256 := by
  rw [expResult_eq, U, BitVec.toNat_pow]

/-! ## The values of the signed results -/

/-- Zero is zero in both readings. -/
theorem S_eq_zero_iff : S y = 0 ↔ U y = 0 := by
  have hlt : y.toNat < 2 ^ 256 := y.isLt
  rw [S, U, BitVec.toInt_eq_toNat_cond]
  split <;> omega

/-- R155: a quotient rounded toward zero stays in the signed range, but for the least number by -1. -/
theorem tdiv_range {a b n : Int} (hl : -n ≤ a) (hu : a < n) (h : ¬ (a = -n ∧ b = -1)) :
    -n ≤ a.tdiv b ∧ a.tdiv b < n := by
  have hq := Int.natAbs_tdiv_le_natAbs a b
  by_cases hb : 2 ≤ b.natAbs
  · have hhalf : (a.tdiv b).natAbs ≤ a.natAbs / 2 :=
      (Int.natAbs_tdiv a b).trans_le (Nat.div_le_div_left hb (by decide))
    omega
  · obtain rfl | rfl | rfl : b = 0 ∨ b = 1 ∨ b = -1 := by omega
    · rw [Int.tdiv_zero]; omega
    · rw [Int.tdiv_one]; omega
    · rw [Int.tdiv_neg, Int.tdiv_one]; omega

theorem U_sdivResult_of_zero (hy : U y = 0) : U (sdivResult x y) = 0 := by rw [sdivResult, if_pos hy]; rfl

theorem S_sdivResult_of_overflow (hx : S x = -2 ^ 255) (hy : S y = -1) : S (sdivResult x y) = -2 ^ 255 := by
  have h0 : U y ≠ 0 := fun h => by simp [S_eq_zero_iff.mpr h] at hy
  rw [sdivResult, if_neg h0, if_pos ⟨hx, hy⟩, S_W_of_range le_rfl (by decide)]

theorem S_sdivResult (hy : U y ≠ 0) (h : ¬ (S x = -2 ^ 255 ∧ S y = -1)) :
    S (sdivResult x y) = (S x).tdiv (S y) := by
  obtain ⟨hl, hu⟩ := S_range x
  obtain ⟨ql, qu⟩ := tdiv_range hl hu h
  rw [sdivResult, if_neg hy, if_neg h, S_W_of_range ql qu]

theorem U_smodResult_of_zero (hy : U y = 0) : U (smodResult x y) = 0 := by rw [smodResult, if_pos hy]; rfl

/-- The magnitude of a remainder that carries the sign of the dividend. -/
theorem natAbs_sign_mul_mod (a b : Int) : (a.sign * (a.natAbs % b.natAbs : Nat)).natAbs = a.natAbs % b.natAbs := by
  rw [Int.natAbs_mul, Int.natAbs_sign, Int.natAbs_natCast]
  split
  · next ha => rw [ha, Int.natAbs_zero, Nat.zero_mod, Nat.mul_zero]
  · rw [Nat.one_mul]

theorem S_smodResult (hy : U y ≠ 0) :
    S (smodResult x y) = (S x).sign * ((S x).natAbs % (S y).natAbs : Nat) := by
  have hmag := natAbs_sign_mul_mod (S x) (S y)
  have hlt := Nat.mod_lt (S x).natAbs (Int.natAbs_pos.mpr (mt S_eq_zero_iff.mp hy))
  have hy' := S_range y
  rw [smodResult, if_neg hy, S_W_of_range (by omega) (by omega)]

/-! ## The bits of SIGNEXTEND -/

theorem signextendResult_of_le (hb : 31 ≤ U b) : signextendResult x b = x := if_pos hb

/-- R161: the bits up to `t = 8 * U(b) + 7` are those of `x`, the bits above are bit `t`. -/
theorem signextendResult_getLsbD (hb : U b < 31) {k : Nat} (hk : k < 256) :
    (signextendResult x b).getLsbD k = x.getLsbD (if k ≤ 8 * U b + 7 then k else 8 * U b + 7) := by
  rw [signextendResult, if_neg (by omega), BitVec.getLsbD_signExtend, BitVec.getLsbD_setWidth, BitVec.msb_setWidth]
  by_cases h : k ≤ 8 * U b + 7
  · simp [hk, h, Nat.lt_succ_of_le h]
  · simp [hk, h, show ¬ k < 8 * U b + 7 + 1 by omega]

/-! ## The obligations -/

/-- Settles O25: `W` reduces the sum and the product, and keeps products of either reading. -/
theorem addAndMulWrap : Obligations.AddAndMulWrap :=
  ⟨hasSelect_of_row (fun _ => rfl) rfl, hasSelect_of_row (fun _ => rfl) rfl, fun _ =>
    ⟨fun h => ⟨binaryXY_of_lt _ h, binaryXY_of_lt _ h⟩, fun x y _ h =>
      ⟨addResult x y, mulResult x y, binaryXY_of_operandsXY _ h, U_addResult x y, binaryXY_of_operandsXY _ h,
        U_mulResult x y, mulResult_eq_W_S x y⟩⟩⟩

/-- Settles O26: the difference may be negative; `W` reduces integers. -/
theorem subWraps : Obligations.SubWraps := fun _ =>
  ⟨binaryXY_of_lt _, fun x y _ h => ⟨subResult x y, binaryXY_of_operandsXY _ h, U_W _⟩⟩

/-- Settles O27: quotient and remainder of natural numbers fit in a Word. -/
theorem divAndModAreFloorDivision : Obligations.DivAndModAreFloorDivision := by
  refine fun s => ⟨fun h => ⟨binaryXY_of_lt _ h, binaryXY_of_lt _ h⟩, fun x y l h => ⟨divResult x y, modResult x y,
    binaryXY_of_operandsXY _ h, binaryXY_of_operandsXY _ h, fun hy => ⟨?_, U_modResult_of_zero hy⟩, fun hy => ?_⟩⟩
  · rw [U_divResult, hy, Nat.div_zero]
  · rw [U_divResult, U_modResult hy]
    exact ⟨(Nat.div_add_mod ..).symm, Nat.mod_lt _ (Nat.pos_of_ne_zero hy)⟩

/-- Settles O28: the truncated quotient is in the signed range but in the one case that has its own clause. -/
theorem sdivTruncatesTowardZero : Obligations.SdivTruncatesTowardZero := fun _ =>
  ⟨binaryXY_of_lt _, fun x y _ h => ⟨sdivResult x y, binaryXY_of_operandsXY _ h, U_sdivResult_of_zero,
    S_sdivResult_of_overflow, S_sdivResult⟩⟩

/-- Settles O29: the result is the sign of the dividend times the remainder of the magnitudes. -/
theorem smodFollowsTheDividend : Obligations.SmodFollowsTheDividend := by
  refine fun s => ⟨binaryXY_of_lt _, fun x y l h => ⟨smodResult x y, binaryXY_of_operandsXY _ h, U_smodResult_of_zero,
    fun hy => ?_⟩⟩
  have hr := Int.natCast_nonneg ((S x).natAbs % (S y).natAbs)
  rw [S_smodResult hy]
  exact ⟨natAbs_sign_mul_mod _ _, fun hx => mul_nonneg (Int.sign_nonneg_iff.mpr hx) hr,
    fun hx => mul_nonpos_of_nonpos_of_nonneg (Int.sign_nonpos_iff.mpr hx.le) hr⟩

/-- Settles O30: the exact sum and product are natural numbers, and a remainder by a Word fits in a Word. -/
theorem addmodAndMulmodAreExact : Obligations.AddmodAndMulmodAreExact :=
  ⟨hasSelect_of_row (fun _ => rfl) rfl, hasSelect_of_row (fun _ => rfl) rfl, fun _ =>
    ⟨fun h => ⟨ternaryTop_of_lt _ h, ternaryTop_of_lt _ h⟩, fun x y m _ h =>
      ⟨addmodResult x y m, mulmodResult x y m, ternaryTop_of_cons _ h, ternaryTop_of_cons _ h,
        fun hm => ⟨U_addmodResult_of_zero hm, U_mulmodResult_of_zero hm⟩,
        fun hm => ⟨U_addmodResult hm, U_mulmodResult hm⟩⟩⟩⟩

/-- Settles O31: squaring computes the power (`expResult_eq`). -/
theorem expIsPowerModulo : Obligations.ExpIsPowerModulo := fun _ =>
  ⟨binaryXY_of_lt _, fun x y _ h => ⟨expResult x y, binaryXY_of_operandsXY _ h, U_expResult x y⟩⟩

/-- Settles O32: the kept bits are widened by their own sign. -/
theorem signextendRepeatsTheSignBit : Obligations.SignextendRepeatsTheSignBit :=
  ⟨hasSelect_of_row (fun _ => rfl) rfl, fun _ => ⟨binaryTop_of_lt _, fun x b _ h =>
    ⟨signextendResult x b, binaryTop_of_cons _ h, signextendResult_of_le, fun hb _ => signextendResult_getLsbD hb⟩⟩⟩

end Machine
end Sys2Proof

/-! PROOFS. Comparison and bitwise commands (44_comparison_bitwise.md): what each command leaves (O33 to O39). The
operand forms have their equations above; here each result gets its value, its bits, or the shift it computes. -/

namespace Sys2Proof
namespace Machine

variable {s : State} {x y i shift value : Word} {l : List Word} {k : Nat}

/-! ## What a command with one operand leaves -/

theorem unaryOp_of_lt (f : Word → Word) (h : s.size < 1) : unaryOp f s = .next (s.fails .stackUnderflow) := by
  obtain ⟨-, e⟩ | ⟨_, _, hs, -⟩ := unaryOp_cases f s
  · exact e
  · simp [State.size_eq, hs] at h

theorem unaryOp_of_cons (f : Word → Word) (h : s.stack = x :: l) : unaryOp f s = .next (s.leaves (f x :: l)) := by
  simp only [unaryOp, h, respond_eq]

/-! ## The comparisons -/

/-- R170: the Word of a decided comparison, 1 when it holds and 0 when not. -/
theorem boolWord_decide (p : Prop) [Decidable p] : boolWord (decide p) = if p then 1 else 0 := by
  by_cases h : p <;> simp [h]

/-- R170: a command whose result at `x` and `y` is the Word of a decided comparison leaves 1 or 0. -/
theorem binaryXY_of_boolWord {f : Word → Word → Word} {p : Prop} [Decidable p] (h : s.operandsXY x y l)
    (hf : f x y = boolWord (decide p)) : binaryXY f s = .next (s.leaves ((if p then 1 else 0) :: l)) := by
  rw [binaryXY_of_operandsXY _ h, hf, boolWord_decide]

/-- R175: equality of Words is equality of all 256 bits. -/
theorem eqResult_of_bits_eq (h : ∀ k < 256, x.getLsbD k = y.getLsbD k) : eqResult x y = 1 := by
  rw [eqResult, boolWord_decide, if_pos (BitVec.eq_of_getLsbD_eq h)]

theorem eqResult_of_bit_ne (h : x.getLsbD k ≠ y.getLsbD k) : eqResult x y = 0 := by
  rw [eqResult, boolWord_decide, if_neg (by rintro rfl; exact h rfl)]

/-! ## The bitwise commands -/

theorem notResult_getLsbD (x : Word) (hk : k < 256) : (notResult x).getLsbD k = !x.getLsbD k := by
  rw [notResult, BitVec.getLsbD_not, decide_eq_true hk, Bool.true_and]

/-- R180: in two's complement `-x` is the complement of `x` plus 1. -/
theorem notResult_eq_W_S (x : Word) : notResult x = W (-S x - 1) :=
  calc ~~~x
    _ = -x + W (-1) := (BitVec.not_eq_neg_add x).trans (BitVec.sub_eq_add_neg ..)
    _ = W (-S x) + W (-1) := by simp only [W, BitVec.ofInt_neg, BitVec.ofInt_toInt]
    _ = W (-S x - 1) := (BitVec.ofInt_add ..).symm

/-! ## BYTE -/

theorem U_byteResult_of_le (x : Word) (hi : 32 ≤ U i) : U (byteResult i x) = 0 := by rw [byteResult, if_pos hi]; rfl

/-- R181: byte `i` from the top is digit `31 - i` of `x` in base 256. -/
theorem U_byteResult (x : Word) (hi : U i < 32) : U (byteResult i x) = U x / 256 ^ (31 - U i) % 256 := by
  have hp : 2 ^ (248 - 8 * U i) = 256 ^ (31 - U i) := by
    rw [show 248 - 8 * U i = 8 * (31 - U i) by omega, Nat.pow_mul]
  rw [byteResult, if_neg (by omega), U, BitVec.toNat_setWidth_of_le (by decide), BitVec.extractLsb'_toNat,
    Nat.shiftRight_eq_div_pow, hp]

/-! ## The shifts: each result is the shift of the 256 bits, a shift of 256 or more included -/

theorem shlResult_eq (shift value : Word) : shlResult shift value = value <<< U shift := by
  unfold shlResult
  split
  · next h => exact (BitVec.shiftLeft_eq_zero h).symm
  · apply BitVec.eq_of_toNat_eq
    rw [BitVec.toNat_shiftLeft, Nat.shiftLeft_eq]
    exact U_W_natCast _

theorem shrResult_eq (shift value : Word) : shrResult shift value = value >>> U shift := by
  unfold shrResult
  split
  · next h => exact (BitVec.ushiftRight_eq_zero h).symm
  · apply BitVec.eq_of_toNat_eq
    rw [BitVec.toNat_ushiftRight, Nat.shiftRight_eq_div_pow]
    exact U_W_of_lt ((Nat.div_le_self ..).trans_lt value.isLt)

/-- R184: the quotient by `2^shift` rounded toward minus infinity is the arithmetic shift; past the top only the sign
is left. -/
theorem sarResult_eq (shift value : Word) : sarResult shift value = value.sshiftRight (U shift) := by
  unfold sarResult
  split
  · next h =>
    have hmsb : value.msb = value.getLsbD 255 := BitVec.msb_eq_getLsbD_last value
    split
    · next hb =>
      rw [BitVec.sshiftRight_eq_of_msb_true (hmsb.trans hb), BitVec.ushiftRight_eq_zero h]
      rfl
    · next hb =>
      rw [BitVec.sshiftRight_eq_of_msb_false (hmsb.trans (eq_false_of_ne_true hb)), BitVec.ushiftRight_eq_zero h]
      rfl
  · rw [BitVec.sshiftRight_eq, Int.shiftRight_eq_div_pow, Int.fdiv_eq_ediv_of_nonneg _ (by positivity), Nat.cast_pow]
    rfl

theorem shlResult_getLsbD (shift value : Word) (hk : k < 256) :
    (shlResult shift value).getLsbD k = (decide (U shift ≤ k) && value.getLsbD (k - U shift)) := by
  rw [shlResult_eq, BitVec.getLsbD_shiftLeft, decide_eq_true hk, Bool.true_and, ← decide_not]
  simp only [not_lt]

theorem shrResult_getLsbD (shift value : Word) (k : Nat) :
    (shrResult shift value).getLsbD k = value.getLsbD (k + U shift) := by
  rw [shrResult_eq, BitVec.getLsbD_ushiftRight, Nat.add_comm]

theorem sarResult_getLsbD (shift value : Word) (hk : k < 256) :
    (sarResult shift value).getLsbD k = value.getLsbD (if k + U shift < 256 then k + U shift else 255) := by
  rw [sarResult_eq, BitVec.getLsbD_sshiftRight, decide_eq_false (by omega), Bool.not_false, Bool.true_and, Nat.add_comm,
    BitVec.msb_eq_getLsbD_last, apply_ite value.getLsbD]

/-! ## The obligations -/

/-- Settles O33: each result is the Word of a decided comparison. -/
theorem comparisonsPushABoolean : Obligations.ComparisonsPushABoolean := by
  refine fun s => ⟨fun h i hi => ?_, fun x y l h =>
    ⟨binaryXY_of_boolWord h rfl, binaryXY_of_boolWord h rfl, binaryXY_of_boolWord h rfl, binaryXY_of_boolWord h rfl⟩⟩
  simp only [List.mem_cons, List.not_mem_nil, or_false] at hi
  obtain rfl | rfl | rfl | rfl := hi <;> exact binaryXY_of_lt _ h

/-- Settles O34: Words are equal when their bits are. -/
theorem eqAndIszeroTestAllBits : Obligations.EqAndIszeroTestAllBits := by
  refine ⟨hasSelect_of_row (fun _ => rfl) rfl, hasSelect_of_row (fun _ => rfl) rfl, fun s =>
    ⟨binaryXY_of_lt _, unaryOp_of_lt _, fun x y l h => ⟨fun hb => ?_, fun ⟨k, _, hb⟩ => ?_⟩, fun x l h => ?_⟩⟩
  · rw [← eqResult_of_bits_eq hb]
    exact binaryXY_of_operandsXY _ h
  · rw [← eqResult_of_bit_ne hb]
    exact binaryXY_of_operandsXY _ h
  · rw [← boolWord_decide]
    exact unaryOp_of_cons _ h

/-- Settles O35: the three results are the bitwise operations on 256-bit vectors. -/
theorem andOrXorAreBitwise : Obligations.AndOrXorAreBitwise := by
  refine ⟨hasSelect_of_row (fun _ => rfl) rfl, hasSelect_of_row (fun _ => rfl) rfl,
    hasSelect_of_row (fun _ => rfl) rfl, fun s => ⟨fun h i hi => ?_, fun x y l h =>
      ⟨andResult x y, orResult x y, xorResult x y, binaryXY_of_operandsXY _ h, binaryXY_of_operandsXY _ h,
        binaryXY_of_operandsXY _ h, fun _ _ => ⟨BitVec.getLsbD_and, BitVec.getLsbD_or, BitVec.getLsbD_xor⟩⟩⟩⟩
  simp only [List.mem_cons, List.not_mem_nil, or_false] at hi
  obtain rfl | rfl | rfl := hi <;> exact binaryXY_of_lt _ h

/-- Settles O36: the complement by bits, and by the signed reading. -/
theorem notComplementsEveryBit : Obligations.NotComplementsEveryBit := fun _ =>
  ⟨unaryOp_of_lt _, fun x _ h =>
    ⟨notResult x, unaryOp_of_cons _ h, fun _ => notResult_getLsbD x, notResult_eq_W_S x⟩⟩

/-- Settles O37: the bits of a byte are a digit in base 256. -/
theorem byteSelectsFromTheTop : Obligations.ByteSelectsFromTheTop :=
  ⟨hasSelect_of_row (fun _ => rfl) rfl, fun _ => ⟨binaryTop_of_lt _, fun i x _ h =>
    ⟨byteResult i x, binaryTop_of_cons _ h, U_byteResult_of_le x, U_byteResult x⟩⟩⟩

/-- Settles O38: product and quotient by a power of 2 are the logical shifts. -/
theorem logicalShiftsFillWithZero : Obligations.LogicalShiftsFillWithZero :=
  ⟨hasSelect_of_row (fun _ => rfl) rfl, hasSelect_of_row (fun _ => rfl) rfl, fun _ =>
    ⟨fun h => ⟨binaryTop_of_lt _ h, binaryTop_of_lt _ h⟩, fun shift value _ h =>
      ⟨shlResult shift value, shrResult shift value, binaryTop_of_cons _ h, binaryTop_of_cons _ h, fun k hk =>
        ⟨shlResult_getLsbD shift value hk, shrResult_getLsbD shift value k⟩⟩⟩⟩

/-- Settles O39: the floor quotient by a power of 2 is the arithmetic shift (`sarResult_eq`). -/
theorem sarFillsWithTheSign : Obligations.SarFillsWithTheSign := fun _ =>
  ⟨binaryTop_of_lt _, fun shift value _ h =>
    ⟨sarResult shift value, binaryTop_of_cons _ h, fun _ => sarResult_getLsbD shift value⟩⟩

end Machine
end Sys2Proof

/-! PROOFS. The hashing command (45_hashing.md): KECCAK256 (O40). An operand within OFFSET_LIMIT is used as its exact
value and one above it is refused; the offset is tried before the size. -/

namespace Sys2Proof
namespace Machine

variable {s : State} {w p n : Word} {l : List Word}

/-! ## A Word used as an offset or size -/

/-- D11: the exact value. -/
theorem wordToOffset_of_offsetOk (h : s.offsetOk w) : wordToOffset s w = .ok (U w) := by
  obtain ⟨-, e⟩ | ⟨_, hl, hlt, -⟩ := wordToOffset_cases s w
  · exact e
  · exact absurd h (not_offsetOk hl hlt)

/-- R73. -/
theorem wordToOffset_of_not_offsetOk (h : ¬ s.offsetOk w) : wordToOffset s w = .error (.offsetLimit (U w)) := by
  obtain ⟨ho, -⟩ | ⟨_, -, -, e⟩ := wordToOffset_cases s w
  · exact absurd ho h
  · exact e

/-! ## What KECCAK256 answers -/

theorem execKeccak256_of_lt (h : s.size < 2) : execKeccak256 s = .next (s.fails .stackUnderflow) := by
  obtain ⟨-, e⟩ | ⟨_, _, _, hs, -⟩ := execKeccak256_cases s
  · exact e
  · simp [State.size_eq, hs] at h

/-- R190: the digest of the range in place of the two operands, and the range on the hash port. -/
theorem execKeccak256_of_offsetOk (h : s.stack = p :: n :: l) (hp : s.offsetOk p) (hn : s.offsetOk n) :
    execKeccak256 s =
      .next ((s.withStack (wordOfBytes (Config.keccak256 (s.mem.read (U p) (U n))).toList :: l)).answered (.ok .none)
        (some (s.mem.read (U p) (U n)))) := by
  simp only [execKeccak256, h, wordToOffset_of_offsetOk hp, wordToOffset_of_offsetOk hn]

theorem execKeccak256_of_not_offsetOk_offset (h : s.stack = p :: n :: l) (hp : ¬ s.offsetOk p) :
    execKeccak256 s = .refused (.offsetLimit (U p)) := by
  simp only [execKeccak256, h, wordToOffset_of_not_offsetOk hp]

theorem execKeccak256_of_not_offsetOk_size (h : s.stack = p :: n :: l) (hp : s.offsetOk p) (hn : ¬ s.offsetOk n) :
    execKeccak256 s = .refused (.offsetLimit (U n)) := by
  simp only [execKeccak256, h, wordToOffset_of_offsetOk hp, wordToOffset_of_not_offsetOk hn]

/-! ## The obligation -/

/-- Settles O40: with both operands within the limit the request is the range read, whatever the hash function; the
first operand above the limit is the one refused. -/
theorem keccakHashesItsRange : Obligations.KeccakHashesItsRange := fun s =>
  ⟨execKeccak256_of_lt, fun p n _ h =>
    ⟨fun hp hn => ⟨_, s.mem.read (U p) (U n), execKeccak256_of_offsetOk h hp hn, Memory.read_length ..,
        fun _ => s.mem.read_getElem?, fun _ => wordOfBytes_digest_byte _⟩,
      execKeccak256_of_not_offsetOk_offset h, execKeccak256_of_not_offsetOk_size h⟩⟩

end Machine
end Sys2Proof

/-! PROOFS. The memory commands (46_memory_ops.md): MLOAD (O41), MSTORE (O42) and MSTORE8 (O43). The two stores differ in
the bytes of the value alone, so one equation in each case of `storeOp` serves both. -/

namespace Sys2Proof
namespace Machine

variable {s : State} {p v : Word} {l : List Word} {a : Nat} {b : Bytes}

/-! ## What MLOAD answers -/

theorem execMload_of_lt (h : s.size < 1) : execMload s = .next (s.fails .stackUnderflow) := by
  obtain ⟨-, e⟩ | ⟨_, _, hs, -⟩ := execMload_cases s
  · exact e
  · simp [State.size_eq, hs] at h

/-- R195: the Word of the 32 bytes at the offset in place of the offset. -/
theorem execMload_of_offsetOk (h : s.stack = p :: l) (hp : s.offsetOk p) :
    execMload s = .next (s.leaves (wordOfBytes (s.mem.read (U p) 32) :: l)) := by
  simp only [execMload, h, wordToOffset_of_offsetOk hp, respond_eq]

theorem execMload_of_not_offsetOk (h : s.stack = p :: l) (hp : ¬ s.offsetOk p) :
    execMload s = .refused (.offsetLimit (U p)) := by
  simp only [execMload, h, wordToOffset_of_not_offsetOk hp]

/-! ## What a store of the value at the offset on top answers -/

/-- R63, R74. -/
theorem storeMem_of_memOk (h : s.memOk (a + b.length)) : storeMem s a b = .ok (s.withMem (s.mem.write a b)) := by
  obtain ⟨-, e⟩ | ⟨_, hl, hlt, -⟩ := storeMem_cases s a b
  · exact e
  · exact absurd h (not_memOk hl hlt)

/-- R74, D12. -/
theorem storeMem_of_not_memOk (h : ¬ s.memOk (a + b.length)) :
    storeMem s a b = .error (.memLimit (a + b.length)) := by
  obtain ⟨hm, -⟩ | ⟨_, -, -, e⟩ := storeMem_cases s a b
  · exact absurd hm h
  · exact e

variable (f : Word → Bytes)

theorem storeOp_of_lt (h : s.size < 2) : storeOp f s = .next (s.fails .stackUnderflow) := by
  obtain ⟨-, e⟩ | ⟨_, _, _, hs, -⟩ := storeOp_cases f s
  · exact e
  · simp [State.size_eq, hs] at h

/-- R196, R197: within both limits the bytes of the value are written at the offset and both operands leave. -/
theorem storeOp_of_limits (h : s.stack = p :: v :: l) (hp : s.offsetOk p) (hm : s.memOk (U p + (f v).length)) :
    storeOp f s = .next ((s.withMem (s.mem.write (U p) (f v))).leaves l) := by
  simp only [storeOp, h, wordToOffset_of_offsetOk hp, storeMem_of_memOk hm, respond_eq]

theorem storeOp_of_not_offsetOk (h : s.stack = p :: v :: l) (hp : ¬ s.offsetOk p) :
    storeOp f s = .refused (.offsetLimit (U p)) := by
  simp only [storeOp, h, wordToOffset_of_not_offsetOk hp]

theorem storeOp_of_not_memOk (h : s.stack = p :: v :: l) (hp : s.offsetOk p) (hm : ¬ s.memOk (U p + (f v).length)) :
    storeOp f s = .refused (.memLimit (U p + (f v).length)) := by
  simp only [storeOp, h, wordToOffset_of_offsetOk hp, storeMem_of_not_memOk hm]

/-- R197: the byte string that MSTORE8 stores, the value's least significant byte. -/
abbrev lowByte (v : Word) : Bytes := [v.setWidth 8]

theorem lowByte_length (v : Word) : (lowByte v).length = 1 := rfl

/-! ## The obligations -/

/-- Settles O41: byte `k` of the Word of 32 bytes is the byte of Memory there, and that is zero past the length. -/
theorem mloadReadsBigEndian : Obligations.MloadReadsBigEndian := by
  refine fun s => ⟨execMload_of_lt, fun p l h => ⟨fun hp => ⟨_, execMload_of_offsetOk h hp, fun k hk => ?_⟩,
    execMload_of_not_offsetOk h⟩⟩
  have hb := wordOfBytes_read_byte (p := U p) s.mem hk
  exact ⟨hb, fun hle => hb.trans (Memory.readByte_of_le hle)⟩

/-- Settles O42: the new Memory is the old one after the write of `BE32(v)`. -/
theorem mstoreWritesBigEndian : Obligations.MstoreWritesBigEndian := by
  refine fun s => ⟨storeOp_of_lt be32, fun p v l h => ?_⟩
  rw [← be32_length v]
  refine ⟨fun hp hm => ⟨_, storeOp_of_limits be32 h hp hm, Memory.write_mlen .., fun k hk => ?_,
    fun _ => Memory.write_readByte_outside⟩, storeOp_of_not_offsetOk be32 h, storeOp_of_not_memOk be32 h⟩
  rw [Memory.write_readByte_inside hk, be32_getElem]

/-- Settles O43: the new Memory is the old one after the write of `lowByte v`. -/
theorem mstore8WritesOneByte : Obligations.Mstore8WritesOneByte := by
  refine fun s => ⟨storeOp_of_lt lowByte, fun p v l h => ?_⟩
  rw [← lowByte_length v]
  refine ⟨fun hp hm => ⟨_, storeOp_of_limits lowByte h hp hm, Memory.write_mlen .., ?_, fun a ha => ?_⟩,
    storeOp_of_not_offsetOk lowByte h, storeOp_of_not_memOk lowByte h⟩
  · have hb : (s.mem.write (U p) (lowByte v)).readByte (U p) = v.setWidth 8 :=
      Memory.write_readByte_inside (k := 0) (by rw [lowByte_length]; exact Nat.one_pos)
    rw [hb, BitVec.toNat_setWidth]
  · exact Memory.write_readByte_outside (by rw [lowByte_length]; omega)

end Machine
end Sys2Proof

/-! PROOFS. The stack commands (47_stack_ops.md): POP (O44), PUSH0 (O45) and the family PUSHN (O46). Each command has one
equation per case; the members of a family share theirs. -/

namespace Sys2Proof
namespace Machine

variable {s : State} {v : Word} {l : List Word} {p : Nat × Instr} {n k : Nat} {b : Bytes}

/-! ## What POP and PUSH0 answer -/

theorem execPop_of_empty (h : s.size = 0) : execPop s = .next (s.fails .stackUnderflow) := by
  simp only [execPop, pop_of_nil (List.length_eq_zero_iff.mp h), raise_eq]

theorem execPop_of_cons (h : s.stack = v :: l) : execPop s = .next (s.leaves l) := by
  simp only [execPop, pop_of_cons h, respond_eq]

/-- R201, R26: below capacity. -/
theorem execPush0_of_room (h : s.size ≠ Config.stackCap) :
    execPush0 s = .next ((s.leaves (0 :: s.stack)).withPc (s.pc + s.params.push0PcStep.val)) := by
  rw [execPush0, push_of_room h]
  rfl

theorem execPush0_of_full (h : s.size = Config.stackCap) : execPush0 s = .next (s.fails .stackOverflow) := by
  rw [execPush0, push_of_full h]
  rfl

/-! ## What PUSHN answers -/

/-- R307: the code bound comes first, whatever the size. -/
theorem pushN_of_short_code (h : s.code.length < s.pc + n + 1) :
    pushN n s = .next (s.fails .pushSizeExceedsCodeSize) := if_pos h

theorem pushN_of_room (hc : s.pc + n + 1 ≤ s.code.length) (hs : s.size ≠ Config.stackCap) :
    pushN n s = .next ((s.leaves (wordOfBytes (operandBytes s n) :: s.stack)).withPc (s.pc + n + 1)) := by
  rw [pushN, if_neg (by omega), push_of_room hs]
  rfl

theorem pushN_of_full (hc : s.pc + n + 1 ≤ s.code.length) (hs : s.size = Config.stackCap) :
    pushN n s = .next (s.fails .stackOverflow) := by
  rw [pushN, if_neg (by omega), push_of_full hs]
  rfl

/-! ## The immediate -/

theorem operandBytes_length (h : s.pc + n + 1 ≤ s.code.length) : (operandBytes s n).length = n := by
  rw [operandBytes, List.length_take, List.length_drop]
  omega

/-- R94: byte `k` of the immediate stands `k + 1` places after `pc`. -/
theorem operandBytes_getElem? (h : k < n) : (operandBytes s n)[k]? = s.code[s.pc + 1 + k]? := by
  rw [operandBytes, List.getElem?_take_of_lt h, List.getElem?_drop]

/-- R202: a Word made of `n` bytes is zero-extended. -/
theorem U_wordOfBytes_lt (hb : b.length = n) (hn : n ≤ 32) : U (wordOfBytes b) < 2 ^ (8 * n) := by
  subst hb
  rw [U, wordOfBytes_toNat hn, pow_mul]
  exact fromBE_lt b

/-- R202, R67: the last byte is the least significant, so byte `k` of `n` has `n - 1 - k` bytes below it. -/
theorem wordOfBytes_byte_of_le (hb : b.length = n) (hn : n ≤ 32) (hk : k < n) :
    b[k]? = some ((wordOfBytes b).extractLsb' (8 * (n - 1 - k)) 8) := by
  subst hb
  rw [List.getElem?_eq_getElem hk]
  refine congrArg some (BitVec.eq_of_toNat_eq ?_)
  rw [BitVec.extractLsb'_toNat, wordOfBytes_toNat hn, Nat.shiftRight_eq_div_pow, pow_mul]
  exact (fromBE_digit b k hk).symm

/-! ## The family -/

/-- R203 to R234: every member is PUSHN with its `N`. -/
theorem exec_pushFamily (hp : p ∈ pushFamily) : exec p.2 = pushN p.1 := by
  have h : pushFamily.map (fun p => exec p.2) = pushFamily.map (fun p => pushN p.1) := rfl
  exact List.map_inj_left.mp h p hp

theorem pushFamily_le (hp : p ∈ pushFamily) : p.1 ≤ 32 := by
  revert p
  decide

/-! ## The obligations -/

/-- Settles O44: the select is a row's; POP has two answers. -/
theorem popDiscardsTheTop : Obligations.PopDiscardsTheTop :=
  ⟨hasSelect_of_row (fun _ => rfl) rfl, fun _ => ⟨execPop_of_empty, fun _ _ => execPop_of_cons⟩⟩

/-- Settles O45: PUSH0 has two answers. -/
theorem push0PushesZero : Obligations.Push0PushesZero := fun _ => ⟨execPush0_of_room, execPush0_of_full⟩

/-- Settles O46: PUSHN has three answers; the Word pushed is that of the `N` bytes after `pc`. -/
theorem pushNPushesItsImmediate : Obligations.PushNPushesItsImmediate := by
  intro p hp s
  rw [exec_pushFamily hp]
  refine ⟨fun hc hs => ?_, pushN_of_short_code, pushN_of_full⟩
  have hlen := operandBytes_length hc
  have hn := pushFamily_le hp
  exact ⟨wordOfBytes (operandBytes s p.1), pushN_of_room hc hs, U_wordOfBytes_lt hlen hn, fun k hk =>
    (operandBytes_getElem? hk).symm.trans (wordOfBytes_byte_of_le hlen hn hk)⟩

end Machine
end Sys2Proof

/-! PROOFS. The families DUPN (O47) and SWAPN (O48) of 48_dup_swap.md. SWAPN is STK.SWAP at depth `N + 1`, so its cases
are those of that command. -/

namespace Sys2Proof
namespace Machine

variable {s : State} {v : Word} {p : Nat × Instr} {n base : Nat} {family : List (Nat × Instr)}

/-! ## What DUPN answers -/

theorem dupN_of_empty (h : s.size = 0) : dupN n s = .next (s.fails .emptyStack) := by
  rw [dupN, peek_of_empty h]
  rfl

theorem dupN_of_deep (h : s.size ≠ 0) (hn : s.size < n) : dupN n s = .next (s.fails .indexOutOfRange) := by
  rw [dupN, peek_of_deep h hn]
  rfl

theorem dupN_of_full (hv : s.stack[n - 1]? = some v) (h : s.size = Config.stackCap) :
    dupN n s = .next (s.fails .stackOverflow) := by
  simp only [dupN, peek_of_listed hv, push_of_full h, complete, raise_eq]

/-- R240: the copy goes on top of a Stack that is otherwise as it was. -/
theorem dupN_of_room (hv : s.stack[n - 1]? = some v) (h : s.size ≠ Config.stackCap) :
    dupN n s = .next (s.leaves (v :: s.stack)) := by
  simp only [dupN, peek_of_listed hv, push_of_room h, complete, respond_eq]

/-- R22: depth `n` is position `n - 1`. -/
theorem exists_at_depth (hn : 1 ≤ n) (h : n ≤ s.size) : ∃ v, s.stack[n - 1]? = some v :=
  ⟨_, List.getElem?_eq_getElem (by rw [State.size_eq] at h; omega)⟩

/-! ## The families -/

/-- R241 to R256: every member is DUPN with its `N`. -/
theorem exec_dupFamily (hp : p ∈ dupFamily) : exec p.2 = dupN p.1 := by
  have h : dupFamily.map (fun p => exec p.2) = dupFamily.map (fun p => dupN p.1) := rfl
  exact List.map_inj_left.mp h p hp

theorem dupFamily_range (hp : p ∈ dupFamily) : 1 ≤ p.1 ∧ p.1 ≤ 16 := by
  revert p
  decide

/-- R123, R260: in the family's range SWAPN is STK.SWAP at depth `N + 1`, whose guard is never met. -/
theorem swapN_eq_execStkSwap (hn : 1 ≤ n) (s : State) : swapN n s = execStkSwap (n + 1 : Nat) s :=
  (if_neg (by omega)).symm

/-- R261 to R276: every member is SWAPN with its `N`. -/
theorem exec_swapFamily (hp : p ∈ swapFamily) : exec p.2 = swapN p.1 := by
  have h : swapFamily.map (fun p => exec p.2) = swapFamily.map (fun p => swapN p.1) := rfl
  exact List.map_inj_left.mp h p hp

theorem swapFamily_pos (hp : p ∈ swapFamily) : 1 ≤ p.1 := by
  revert p
  decide

/-- R96: a member of a family has the select `base + N` when the rows from there on build the family. -/
theorem hasSelect_of_family
    (hr : ∀ c, family.map (fun p => (rowOf (.ofNat 9 (base + p.1))).map fun r => r.build c) =
      family.map fun p => some p.2)
    (hw : ∀ p ∈ family, p.2.wellFormed = true) (hp : p ∈ family) : hasSelect (base + p.1) p.2 :=
  hasSelect_of_row (fun c => List.map_inj_left.mp (hr c) p hp) (hw p hp)

/-! ## The obligations -/

/-- Settles O47: DUPN has four answers; at size 1024 no depth of the family is out of range. -/
theorem dupNPushesACopy : Obligations.DupNPushesACopy := by
  refine ⟨fun p => hasSelect_of_family (fun _ => rfl) (by decide), fun p hp s => ?_⟩
  obtain ⟨h1, h16⟩ := dupFamily_range hp
  rw [exec_dupFamily hp]
  refine ⟨fun hn hs => ?_, dupN_of_empty, dupN_of_deep, fun hs => ?_⟩
  · obtain ⟨v, hv⟩ := exists_at_depth h1 hn
    exact ⟨v, hv, dupN_of_room hv hs⟩
  · obtain ⟨v, hv⟩ := exists_at_depth (s := s) h1 (by omega)
    exact dupN_of_full hv hs

/-- Settles O48: the exchange and the two errors are those of STK.SWAP. -/
theorem swapNExchangesTwoWords : Obligations.SwapNExchangesTwoWords := by
  refine ⟨fun p => hasSelect_of_family (fun _ => rfl) (by decide), fun p hp s => ?_⟩
  have h1 := swapFamily_pos hp
  rw [exec_swapFamily hp, swapN_eq_execStkSwap h1]
  exact ⟨fun h => execStkSwap_exchanged (by omega) (by omega), execStkSwap_of_empty,
    fun h hd => execStkSwap_of_deep h (by omega)⟩

end Machine
end Sys2Proof

/-! PROOFS. Errors (60_exceptions.md). `errorIn` lists the causes of the errors in the order of their tests (R311), and
`errorOf_exec` says that every command answers the error the list gives; the rules on single kinds (O11 to O15) are read
off the list. An error changes nothing (O16), and neither does a step with no command (O7). -/

namespace Sys2Proof
namespace Machine

variable {s t : State} {i : Instr} {op : State → Out} {e : ErrorKind} {d : Int} {n : Nat}

/-! ## The error of a command -/

/-- R302 to R305, R307: the error a command answers in a state, its causes in the order of R311. -/
def errorIn (s : State) (i : Instr) : Option ErrorKind :=
  if s.size < i.operandCount then some .stackUnderflow
  else if i.depth.isSome ∧ s.size = 0 then some .emptyStack
  else if ∃ d ∈ i.depth, (s.size : Int) < d then some .indexOutOfRange
  else if ∃ n ∈ i.immediateSize, s.code.length < s.pc + n + 1 then some .pushSizeExceedsCodeSize
  else if i.pushesFirst = true ∧ s.size = Config.stackCap then some .stackOverflow
  else none

/-! ### Commands that take operands or none -/

/-- R303: the operation answers StackUnderflow below `n` Words, and no other error. -/
def Underflows (n : Nat) (op : State → Out) : Prop :=
  ∀ s, errorOf (op s) = if s.size < n then some .stackUnderflow else none

theorem underflows_of_cases
    (h : ∀ s, s.size < n ∧ op s = .next (s.fails .stackUnderflow) ∨ n ≤ s.size ∧ errorOf (op s) = none) :
    Underflows n op := by
  intro s
  obtain ⟨hlt, e⟩ | ⟨hle, e⟩ := h s <;> rw [e]
  · exact (if_pos hlt).symm
  · exact (if_neg hle.not_gt).symm

theorem underflows_unaryOp (f : Word → Word) : Underflows 1 (unaryOp f) :=
  underflows_of_cases fun s => (unaryOp_cases f s).imp_right fun ⟨_, _, hs, e⟩ =>
    ⟨by simp [State.size_eq, hs], by rw [e]; rfl⟩

theorem underflows_binaryXY (f : Word → Word → Word) : Underflows 2 (binaryXY f) :=
  underflows_of_cases fun s => (binaryXY_cases f s).imp_right fun ⟨_, _, _, hs, e⟩ =>
    ⟨by simp [State.size_eq, hs], by rw [e]; rfl⟩

theorem underflows_binaryTop (f : Word → Word → Word) : Underflows 2 (binaryTop f) :=
  underflows_of_cases fun s => (binaryTop_cases f s).imp_right fun ⟨_, _, _, hs, e⟩ =>
    ⟨by simp [State.size_eq, hs], by rw [e]; rfl⟩

theorem underflows_ternaryTop (f : Word → Word → Word → Word) : Underflows 3 (ternaryTop f) :=
  underflows_of_cases fun s => (ternaryTop_cases f s).imp_right fun ⟨_, _, _, _, hs, e⟩ =>
    ⟨by simp [State.size_eq, hs], by rw [e]; rfl⟩

theorem underflows_storeOp (f : Word → Bytes) : Underflows 2 (storeOp f) := by
  refine underflows_of_cases fun s => (storeOp_cases f s).imp_right fun ⟨_, _, _, hs, h⟩ =>
    ⟨by simp [State.size_eq, hs], ?_⟩
  obtain ⟨-, -, e⟩ | ⟨_, -, -, e⟩ | ⟨_, -, -, -, e⟩ := h <;> rw [e] <;> rfl

theorem underflows_execMload : Underflows 1 execMload := by
  refine underflows_of_cases fun s => (execMload_cases s).imp_right fun ⟨_, _, hs, h⟩ =>
    ⟨by simp [State.size_eq, hs], ?_⟩
  obtain ⟨-, e⟩ | ⟨_, -, -, e⟩ := h <;> rw [e] <;> rfl

theorem underflows_execKeccak256 : Underflows 2 execKeccak256 := by
  refine underflows_of_cases fun s => (execKeccak256_cases s).imp_right fun ⟨_, _, _, hs, h⟩ =>
    ⟨by simp [State.size_eq, hs], ?_⟩
  obtain ⟨-, -, e⟩ | ⟨_, -, -, e⟩ | ⟨_, -, -, -, e⟩ := h <;> rw [e] <;> rfl

theorem underflows_execPop : Underflows 1 execPop :=
  underflows_of_cases fun s => (execPop_cases s).imp (And.imp_left Nat.lt_one_iff.mpr) fun ⟨_, _, hs, e⟩ =>
    ⟨by simp [State.size_eq, hs], by rw [e]; rfl⟩

theorem underflows_execStkPop : Underflows 1 execStkPop :=
  underflows_of_cases fun s => (execStkPop_cases s).imp (And.imp_left Nat.lt_one_iff.mpr) fun ⟨_, _, hs, e⟩ =>
    ⟨by simp [State.size_eq, hs], by rw [e]; rfl⟩

/-- An operation that takes no operand underflows on no Stack when it answers no error. -/
theorem underflows_zero (h : ∀ s, errorOf (op s) = none) : Underflows 0 op := fun s =>
  (h s).trans (if_neg (Nat.not_lt_zero _)).symm

theorem errorOf_storePort (v : Bytes) (p : Nat) (s : State) : errorOf (storePort v p s) = none := by
  obtain ⟨-, e⟩ | ⟨_, -, -, e⟩ := storePort_cases v p s <;> rw [e] <;> rfl

theorem errorOf_execStoStore (k : Int) (v : Bytes) (s : State) : errorOf (execStoStore k v s) = none := by
  obtain ⟨-, e⟩ | ⟨-, e⟩ := execStoStore_cases k v s <;> rw [e] <;> rfl

theorem errorOf_execStoLoad (k : Int) (s : State) : errorOf (execStoLoad k s) = none := by
  obtain ⟨-, e⟩ | ⟨-, e⟩ := execStoLoad_cases k s <;> rw [e] <;> rfl

/-- For a command with no depth and no immediate that does not push first, the operand count is the one cause. -/
theorem errorOf_exec_of_underflows (hd : i.depth = none) (hn : i.immediateSize = none) (hp : i.pushesFirst = false)
    (h : Underflows i.operandCount (exec i)) : errorOf (exec i s) = errorIn s i := by
  simp [h s, errorIn, hd, hn, hp]

/-! ### Commands that push -/

/-- For a push with no depth and no immediate, the capacity is the one cause. -/
theorem errorIn_of_push (ho : i.operandCount = 0) (hd : i.depth = none) (hn : i.immediateSize = none)
    (hp : i.pushesFirst = true) :
    errorIn s i = if s.size = Config.stackCap then some .stackOverflow else none := by
  simp [errorIn, ho, hd, hn, hp]

theorem errorOf_execPush0 : errorOf (execPush0 s) = errorIn s .push0 := by
  rw [errorIn_of_push rfl rfl rfl rfl]
  obtain ⟨h, e⟩ | ⟨h, e⟩ := execPush0_cases s <;> rw [e]
  · exact (if_pos h).symm
  · exact (if_neg h).symm

theorem errorOf_execStkPush (v : Word) : errorOf (execStkPush v s) = errorIn s (.stkPush v) := by
  rw [errorIn_of_push rfl rfl rfl rfl]
  obtain ⟨h, e⟩ | ⟨h, e⟩ := execStkPush_cases v s <;> rw [e]
  · exact (if_pos h).symm
  · exact (if_neg h).symm

/-- R311: with an immediate the code bound comes before the capacity. -/
theorem errorIn_of_immediate (ho : i.operandCount = 0) (hd : i.depth = none) (hn : i.immediateSize = some n)
    (hp : i.pushesFirst = true) :
    errorIn s i = if s.code.length < s.pc + n + 1 then some .pushSizeExceedsCodeSize
      else if s.size = Config.stackCap then some .stackOverflow else none := by
  simp [errorIn, ho, hd, hn, hp]

theorem errorOf_pushN (ho : i.operandCount = 0) (hd : i.depth = none) (hn : i.immediateSize = some n)
    (hp : i.pushesFirst = true) : errorOf (pushN n s) = errorIn s i := by
  rw [errorIn_of_immediate ho hd hn hp]
  obtain ⟨hc, e⟩ | ⟨hc, hs, e⟩ | ⟨hc, hs, e⟩ := pushN_cases n s <;> rw [e]
  · exact (if_pos hc).symm
  · rw [if_neg (by omega), if_pos hs]
    rfl
  · rw [if_neg (by omega), if_neg hs]
    rfl

/-! ### Commands that address by depth -/

/-- R311: the empty Stack comes before the depth. -/
theorem errorIn_of_depth (ho : i.operandCount = 0) (hd : i.depth = some d) (hn : i.immediateSize = none) :
    errorIn s i = if s.size = 0 then some .emptyStack else if (s.size : Int) < d then some .indexOutOfRange
      else if i.pushesFirst = true ∧ s.size = Config.stackCap then some .stackOverflow else none := by
  simp [errorIn, ho, hd, hn]

theorem errorOf_dupN (h1 : 1 ≤ n) (ho : i.operandCount = 0) (hd : i.depth = some n) (hn : i.immediateSize = none)
    (hp : i.pushesFirst = true) : errorOf (dupN n s) = errorIn s i := by
  rw [errorIn_of_depth ho hd hn]
  obtain ⟨h, e⟩ | ⟨h, hlt, e⟩ | ⟨hle, hs, e⟩ | ⟨_, hle, hs, -, e⟩ := dupN_cases n h1 s <;> rw [e]
  · exact (if_pos h).symm
  · rw [if_neg h, if_pos (by omega)]
    rfl
  · rw [if_neg (by omega), if_neg (by omega), if_pos ⟨hp, hs⟩]
    rfl
  · rw [if_neg (by omega), if_neg (by omega), if_neg fun h => hs h.2]
    rfl

/-- A command at depth `d` that does not push: SWAPN, STK.PEEK and STK.SWAP. -/
theorem errorIn_of_depth_of_not_pushesFirst (ho : i.operandCount = 0) (hd : i.depth = some d)
    (hn : i.immediateSize = none) (hp : i.pushesFirst = false) :
    errorIn s i = if s.size = 0 then some .emptyStack else if (s.size : Int) < d then some .indexOutOfRange
      else none := by
  simp [errorIn, ho, hd, hn, hp]

theorem errorOf_execStkPeek (d : Int) : errorOf (execStkPeek d s) = errorIn s (.stkPeek d) := by
  rw [errorIn_of_depth_of_not_pushesFirst (d := d) rfl rfl rfl rfl]
  obtain ⟨h, e⟩ | ⟨h, hd, e⟩ | ⟨h, hd, e⟩ | ⟨_, h1, hd, -, e⟩ := execStkPeek_cases d s <;> rw [e]
  · exact (if_pos h).symm
  · rw [if_neg h, if_neg (by omega)]
    rfl
  · rw [if_neg h, if_pos hd]
    rfl
  · rw [if_neg (by omega), if_neg (by omega)]
    rfl

theorem errorOf_execStkSwap (d : Int) :
    errorOf (execStkSwap d s) = if s.size = 0 then some .emptyStack
      else if (s.size : Int) < d then some .indexOutOfRange else none := by
  obtain ⟨h, e⟩ | ⟨h, hd, e⟩ | ⟨h, hd, e⟩ | ⟨_, _, _, h1, hd, -, -, e⟩ := execStkSwap_cases d s <;> rw [e]
  · exact (if_pos h).symm
  · rw [if_neg h, if_neg (by omega)]
    rfl
  · rw [if_neg h, if_pos hd]
    rfl
  · rw [if_neg (by omega), if_neg (by omega)]
    rfl

/-- SWAPN is STK.SWAP at depth `N + 1`. -/
theorem errorOf_swapN (h1 : 1 ≤ n) (ho : i.operandCount = 0) (hd : i.depth = some (n + 1 : Nat))
    (hn : i.immediateSize = none) (hp : i.pushesFirst = false) : errorOf (swapN n s) = errorIn s i := by
  rw [swapN_eq_execStkSwap h1, errorOf_execStkSwap, errorIn_of_depth_of_not_pushesFirst ho hd hn hp]

/-! ### Every command -/

/-- R302 to R307: the error a command answers is the one of its first cause, none when no cause applies. -/
theorem errorOf_exec (i : Instr) (s : State) : errorOf (exec i s) = errorIn s i := by
  cases i
  case iszero | not => exact errorOf_exec_of_underflows rfl rfl rfl (underflows_unaryOp _)
  case addmod | mulmod => exact errorOf_exec_of_underflows rfl rfl rfl (underflows_ternaryTop _)
  case signextend | byte | shl | shr | sar => exact errorOf_exec_of_underflows rfl rfl rfl (underflows_binaryTop _)
  case add | mul | sub | div | sdiv | mod | smod | exp | lt | gt | slt | sgt | eq | and | or | xor =>
    exact errorOf_exec_of_underflows rfl rfl rfl (underflows_binaryXY _)
  case keccak256 => exact errorOf_exec_of_underflows rfl rfl rfl underflows_execKeccak256
  case mload => exact errorOf_exec_of_underflows rfl rfl rfl underflows_execMload
  case mstore | mstore8 => exact errorOf_exec_of_underflows rfl rfl rfl (underflows_storeOp _)
  case pop => exact errorOf_exec_of_underflows rfl rfl rfl underflows_execPop
  case stkPop => exact errorOf_exec_of_underflows rfl rfl rfl underflows_execStkPop
  case memStore | memStoreB | memStoreW =>
    exact errorOf_exec_of_underflows rfl rfl rfl (underflows_zero (errorOf_storePort _ _))
  case stoStore k v => exact errorOf_exec_of_underflows rfl rfl rfl (underflows_zero (errorOf_execStoStore k v))
  case stoLoad k => exact errorOf_exec_of_underflows rfl rfl rfl (underflows_zero (errorOf_execStoLoad k))
  case stkSize | memLoad | memLoadB | memLoadW =>
    exact errorOf_exec_of_underflows rfl rfl rfl (underflows_zero fun _ => rfl)
  case push0 => exact errorOf_execPush0
  case stkPush v => exact errorOf_execStkPush v
  case stkPeek d => exact errorOf_execStkPeek d
  case stkSwap d =>
    exact (errorOf_execStkSwap d).trans (errorIn_of_depth_of_not_pushesFirst rfl rfl rfl rfl).symm
  case dup1 | dup2 | dup3 | dup4 | dup5 | dup6 | dup7 | dup8 | dup9 | dup10 | dup11 | dup12 | dup13 | dup14 | dup15
      | dup16 => exact errorOf_dupN (by decide) rfl rfl rfl rfl
  case swap1 | swap2 | swap3 | swap4 | swap5 | swap6 | swap7 | swap8 | swap9 | swap10 | swap11 | swap12 | swap13
      | swap14 | swap15 | swap16 => exact errorOf_swapN (by decide) rfl rfl rfl rfl
  all_goals exact errorOf_pushN rfl rfl rfl rfl

/-! ## The causes exclude each other -/

/-- R303, C2: a command that addresses by depth takes no operand, and it has no immediate. -/
theorem operandCount_immediateSize_of_depth (h : i.depth = some d) : i.operandCount = 0 ∧ i.immediateSize = none := by
  cases i <;> cases h <;> exact ⟨rfl, rfl⟩

/-- R302, R307: PUSHN takes no operand, addresses no depth and pushes first. -/
theorem isPush_of_immediateSize (h : i.immediateSize = some n) :
    i.operandCount = 0 ∧ i.depth = none ∧ i.pushesFirst = true := by
  cases i <;> cases h <;> exact ⟨rfl, rfl, rfl⟩

/-- R302: a command that pushes first takes no operand, and its depth, if it has one, is at most 16. -/
theorem operandCount_depth_of_pushesFirst (h : i.pushesFirst = true) :
    i.operandCount = 0 ∧ ∀ d ∈ i.depth, d ≤ 16 := by
  cases i <;> cases h <;> exact ⟨rfl, by simp [Instr.depth]⟩

theorem errorIn_ne_of_no_depth (h : i.depth = none) :
    errorIn s i ≠ some .emptyStack ∧ errorIn s i ≠ some .indexOutOfRange := by
  simp only [errorIn, h, Option.isSome_none, Bool.false_eq_true, Option.not_mem_none, false_and, exists_false, if_false]
  split_ifs <;> decide

theorem errorIn_ne_of_no_immediate (h : i.immediateSize = none) : errorIn s i ≠ some .pushSizeExceedsCodeSize := by
  simp only [errorIn, h, Option.not_mem_none, false_and, exists_false, if_false]
  split_ifs <;> decide

/-! ## The obligations -/

/-- Settles O16: of the six effects one answers an error, and it is that state. -/
theorem anErrorChangesNothing : Obligations.AnErrorChangesNothing := by
  intro i s t e h ht
  cases exec_effect h with
  | error => cases ht; rfl
  | stack | immediate | zero | memory | storage => cases ht

/-- R300: an error answered is the whole outcome. -/
theorem exec_eq_of_errorOf (h : errorOf (exec i s) = some e) : exec i s = .next (s.fails e) := by
  cases hx : exec i s with
  | next t =>
    rw [hx] at h
    obtain ⟨r, hr⟩ | ⟨e', -, hr⟩ := (exec_effect hx).rspPort_cases
    · cases (errorOf_next_of_ok hr).symm.trans h
    · cases (errorOf_next_of_error hr).symm.trans h
      rw [anErrorChangesNothing i s t e hx hr]
  | fault f => cases f
  | refused r => rw [hx] at h; cases h

/-- Settles O15: the list names five kinds, none of them a guard rail. -/
theorem guardRailKindsAreNeverRaised : Obligations.GuardRailKindsAreNeverRaised := by
  intro i s
  rw [errorOf_exec, errorIn]
  split_ifs <;> decide

/-- Settles O11: too few operands is the first cause of the list. -/
theorem stackUnderflowExactlyBelowTheOperandCount : Obligations.StackUnderflowExactlyBelowTheOperandCount := by
  intro i s
  rw [errorOf_exec, errorIn]
  by_cases h : s.size < i.operandCount
  · exact iff_of_true (if_pos h) h
  · rw [if_neg h]
    split_ifs <;> exact iff_of_false nofun h

/-- Settles O13: for a command with a depth these two are the first causes; one without has neither. -/
theorem depthErrorsExactly : Obligations.DepthErrorsExactly := by
  intro i s
  rw [errorOf_exec]
  cases hd : i.depth with
  | none =>
    obtain ⟨hempty, hdeep⟩ := errorIn_ne_of_no_depth (s := s) hd
    exact ⟨iff_of_false hempty nofun, iff_of_false hdeep nofun⟩
  | some d =>
    obtain ⟨ho, hn⟩ := operandCount_immediateSize_of_depth hd
    rw [errorIn_of_depth ho hd hn]
    simp only [Option.some.injEq, exists_eq', true_and, exists_eq_left']
    by_cases h0 : s.size = 0
    · rw [if_pos h0]
      exact ⟨iff_of_true rfl h0, iff_of_false nofun (by omega)⟩
    rw [if_neg h0]
    by_cases hlt : (s.size : Int) < d
    · rw [if_pos hlt]
      exact ⟨iff_of_false nofun h0, iff_of_true rfl (by omega)⟩
    · rw [if_neg hlt]
      split_ifs <;> exact ⟨iff_of_false nofun h0, iff_of_false nofun (by omega)⟩

/-- Settles O14: for PUSHN the code bound is the first cause; a command without an immediate has none. -/
theorem pushSizeExceedsCodeSizeExactly : Obligations.PushSizeExceedsCodeSizeExactly := by
  intro i s
  rw [errorOf_exec]
  cases hn : i.immediateSize with
  | none => exact iff_of_false (errorIn_ne_of_no_immediate hn) nofun
  | some n =>
    obtain ⟨ho, hd, hp⟩ := isPush_of_immediateSize hn
    rw [errorIn_of_immediate ho hd hn hp]
    simp only [Option.some.injEq, exists_eq_left']
    by_cases hc : s.code.length < s.pc + n + 1
    · exact iff_of_true (if_pos hc) hc
    · rw [if_neg hc]
      split_ifs <;> exact iff_of_false nofun hc

/-- Settles O12: the capacity is the last cause of the list; at size 1024 no cause before it applies to a push whose
operand bytes are there. -/
theorem stackOverflowExactlyForPushesAtCapacity : Obligations.StackOverflowExactlyForPushesAtCapacity := by
  intro i s
  constructor
  · rw [errorOf_exec, errorIn]
    split_ifs with _ _ _ _ h
    exacts [nofun, nofun, nofun, nofun, fun _ => h, nofun]
  · intro hp hs hcode
    obtain ⟨ho, hdepth⟩ := operandCount_depth_of_pushesFirst hp
    apply exec_eq_of_errorOf
    rw [errorOf_exec, errorIn, if_neg (by omega), if_neg (by omega), if_neg ?deep, if_neg ?short, if_pos ⟨hp, hs⟩]
    case deep =>
      rintro ⟨d, hd, hlt⟩
      have := hdepth d hd
      omega
    case short =>
      rintro ⟨n, hn, hlt⟩
      have := hcode n hn
      omega

/-- Settles O7: the port is read first, and it is empty. -/
theorem stepWithNoCommandHoldsTheState : Obligations.StepWithNoCommandHoldsTheState := by
  intro s h
  simp only [step, fetch, h]

end Machine
end Sys2Proof

/-! PROOFS. Termination (70_reset_and_hazards.md): with the default limits and keys every command answers (O18). -/

namespace Sys2Proof
namespace Machine

variable {s : State} {i : Instr}

/-- R10, R18: with the default limits and keys only a depth can leave a command without a meaning. -/
theorem not_noMeaning_of_defaults (ho : s.params.offsetLimit = none) (hm : s.params.memLimit = none)
    (hmin : s.params.keyMin = none) (hmax : s.params.keyMax = none)
    (hpeek : ∀ d, i = .stkPeek d → s.size = 0 ∨ 1 ≤ d) (hswap : ∀ d, i = .stkSwap d → s.size = 0 ∨ 2 ≤ d)
    (r : Refusal) : ¬ NoMeaning i s r := by
  rintro (⟨d, hi, h0, hd, -⟩ | ⟨d, hi, h0, hd, -⟩ | ⟨k, -, hk, -⟩ | ⟨_, w, _, -, -, hw, -⟩ | ⟨-, n, -, hn, -⟩)
  · have := hpeek d hi
    omega
  · have := hswap d hi
    omega
  · exact hk (by simp [State.keyOk, keyInType, hmin, hmax])
  · exact hw (by simp [State.offsetOk, ho])
  · exact hn (by simp [State.memOk, hm])

/-- Settles O18: there is no fault, and a refusal has a reason. -/
theorem withoutLimitsEveryCommandAnswers : Obligations.WithoutLimitsEveryCommandAnswers := by
  intro i s ho hm hmin hmax hpeek hswap
  cases h : exec i s with
  | next t => exact ⟨t, rfl⟩
  | fault f => cases f
  | refused r => exact absurd (exec_refused_iff.mp h) (not_noMeaning_of_defaults ho hm hmin hmax hpeek hswap r)

end Machine
end Sys2Proof
